-- ==== Sys2Proof/Word.lean ====
section
/-! DEFINITION. The word type of the block: 32-bit registers, and binary32 values held as their
interchange encoding (00_scope.md R12, R24: no other arithmetic type is visible to the host). -/

namespace Sys2Proof

/-- A 32-bit register or bus word, bits numbered from 0, the least significant (R11). -/
abbrev Word := BitVec 32

/-- An `f32`: an IEEE 754 binary32 value, stored as its 32-bit interchange encoding
(bit 31 sign, bits 30:23 exponent, bits 22:0 fraction; R12). -/
abbrev F32 := BitVec 32

/-- One byte lane of the host's bus (R81). -/
abbrev Byte := BitVec 8

end Sys2Proof
end

