-- ==== Sys2Proof/Machine/Float.lean ====
section
/-! DEFINITION. IEEE 754 binary32 arithmetic on encodings, roundTiesToEven, no fused multiply-add
(00_scope.md R13, R16). A result `none` means "the result is a NaN", whose encoding the datapath
draws (R19). Subnormal flushing (R17) is not here: it depends on the configuration.

Every finite binary32 value is an integer number of UNITS of 2^-149, so sums, products and
comparisons are exact integer computations, rounded once at the end. -/

namespace Sys2Proof

/-- The sign bit, bit 31 (R12). -/
def F32.sign (x : F32) : Bool := x.getLsbD 31

/-- Bits 30:0, the encoding without its sign. -/
def F32.mag (x : F32) : Nat := x.toNat % 2 ^ 31

/-- The magnitude of an encoding in units of 2^-149 (an infinity counts as 2^277, one step above
every finite value, so that one order serves both). -/
def F32.units (x : F32) : Nat :=
  if F32.mag x / 2 ^ 23 = 0 then F32.mag x % 2 ^ 23
  else (2 ^ 23 + F32.mag x % 2 ^ 23) * 2 ^ (F32.mag x / 2 ^ 23 - 1)

/-- The signed value in units of 2^-149. -/
def F32.value (x : F32) : Int :=
  if F32.sign x then - (F32.units x : Int) else (F32.units x : Int)

/-- `isFinite(w)` holds when `w[30:23] ≠ 0xFF` (R12). -/
def F32.isFinite (x : F32) : Bool := x.extractLsb' 23 8 != 0xFF#8

/-- An infinity: exponent all ones, fraction zero. -/
def F32.isInf (x : F32) : Bool := F32.mag x == 0x7F800000

/-- A NaN: exponent all ones, fraction not zero. -/
def F32.isNaN (x : F32) : Bool := decide (0x7F800000 < F32.mag x)

/-- A zero of either sign. -/
def F32.isZero (x : F32) : Bool := F32.mag x == 0

/-- A subnormal: exponent zero, fraction not zero. -/
def F32.isSubnormal (x : F32) : Bool := decide (0 < F32.mag x ∧ F32.mag x < 2 ^ 23)

/-- The zero that has the sign of `x` (R17). -/
def F32.zeroLike (x : F32) : F32 := if F32.sign x then 0x80000000#32 else 0#32

/-- An encoding from its sign and bits 30:0. -/
def F32.pack (s : Bool) (m : Nat) : F32 := BitVec.ofNat 32 ((if s then 2 ^ 31 else 0) + m)

/-- Any NaN encoding, from any word: the exponent is forced to all ones, and a zero fraction, which
would be an infinity, gets its top bit. Every NaN is `nanOf` of itself (R19). -/
def F32.nanOf (w : Word) : F32 :=
  if (w.extractLsb' 0 23 : BitVec 23) = 0#23 then w ||| 0x7FC00000#32 else w ||| 0x7F800000#32

/-- Negation: the sign bit flipped, exact (R140). -/
def F32.neg (x : F32) : F32 := x ^^^ 0x80000000#32

/-- Absolute value: the sign bit cleared (R183). -/
def F32.abs (x : F32) : F32 := x &&& 0x7FFFFFFF#32

/-- One past the units of the largest finite value: 2^277. -/
def F32.unitsLimit : Nat := 2 ^ 200 * 2 ^ 77

/-- Bits 30:0 of the binary32 value nearest to the rational `p / q` units, ties to even, overflow to
infinity (R16). With `e` the exponent step, the encoding of `t · 2^e` is `e · 2^23 + t`, for normal
and subnormal values alike, and a carry out of `t` is the carry into the exponent. -/
def F32.roundUnits (p q : Nat) : Nat :=
  if F32.unitsLimit ≤ p / q then 0x7F800000
  else
    let e := Nat.log2 (p / q) - 23
    let d := q * 2 ^ e
    let t := p / d
    let r := p % d
    e * 2 ^ 23 + (if d < 2 * r ∨ (2 * r = d ∧ t % 2 = 1) then t + 1 else t)

/-- `a + b` (R13). An exact zero sum is +0 unless both operands are −0. -/
def F32.add (x y : F32) : Option F32 :=
  if F32.isNaN x || F32.isNaN y then none
  else if F32.isInf x then
    if F32.isInf y && (F32.sign x != F32.sign y) then none else some x
  else if F32.isInf y then some y
  else
    let v := F32.value x + F32.value y
    if v = 0 then some (F32.pack (F32.sign x && F32.sign y) 0)
    else some (F32.pack (decide (v < 0)) (F32.roundUnits v.natAbs 1))

/-- `a - b` (R13). -/
def F32.sub (x y : F32) : Option F32 := F32.add x (F32.neg y)

/-- `a * b` (R13). -/
def F32.mul (x y : F32) : Option F32 :=
  let s := F32.sign x != F32.sign y
  if F32.isNaN x || F32.isNaN y then none
  else if F32.isInf x || F32.isInf y then
    if F32.isZero x || F32.isZero y then none else some (F32.pack s 0x7F800000)
  else some (F32.pack s (F32.roundUnits (F32.units x * F32.units y) (2 ^ 149)))

/-- `a / b` (R13). -/
def F32.div (x y : F32) : Option F32 :=
  let s := F32.sign x != F32.sign y
  if F32.isNaN x || F32.isNaN y then none
  else if F32.isInf x then
    if F32.isInf y then none else some (F32.pack s 0x7F800000)
  else if F32.isInf y then some (F32.pack s 0)
  else if F32.isZero y then
    if F32.isZero x then none else some (F32.pack s 0x7F800000)
  else some (F32.pack s (F32.roundUnits (F32.units x * 2 ^ 149) (F32.units y)))

/-- The largest `r` with `r² ≤ n` among those that keep `acc` and change only bits below `i`. -/
def natSqrtBits (n : Nat) : Nat → Nat → Nat
  | 0, acc => acc
  | i + 1, acc =>
    if (acc + 2 ^ i) * (acc + 2 ^ i) ≤ n then natSqrtBits n i (acc + 2 ^ i)
    else natSqrtBits n i acc

/-- `sqrt(a)` (R13). The root is at least 2^74 units, so its integer part and one sticky half
decide the rounding. -/
def F32.sqrt (x : F32) : Option F32 :=
  if F32.isNaN x then none
  else if F32.isZero x then some x
  else if F32.sign x then none
  else if F32.isInf x then some x
  else
    let n := F32.units x * 2 ^ 149
    let r := natSqrtBits n 214 0
    if r * r = n then some (F32.pack false (F32.roundUnits r 1))
    else some (F32.pack false (F32.roundUnits (2 * r + 1) 2))

/-- `a < b`; false when either is a NaN. -/
def F32.lt (x y : F32) : Bool :=
  !F32.isNaN x && !F32.isNaN y && decide (F32.value x < F32.value y)

/-- `a ≤ b`; false when either is a NaN. -/
def F32.le (x y : F32) : Bool :=
  !F32.isNaN x && !F32.isNaN y && decide (F32.value x ≤ F32.value y)

/-- IEEE `maximum`: a NaN operand gives a NaN, and +0 is above −0 (R13). -/
def F32.max (x y : F32) : Option F32 :=
  if F32.isNaN x || F32.isNaN y then none
  else if F32.value x < F32.value y then some y
  else if F32.value y < F32.value x then some x
  else if F32.sign x then some y else some x

/-- IEEE `minimum`: a NaN operand gives a NaN, and −0 is below +0 (R13). -/
def F32.min (x y : F32) : Option F32 :=
  if F32.isNaN x || F32.isNaN y then none
  else if F32.value x < F32.value y then some x
  else if F32.value y < F32.value x then some y
  else if F32.sign x then some x else some y

/-- `f32(n)` of a non-negative integer, rounded to nearest (exact below 2^24; R8). -/
def F32.ofNat (n : Nat) : F32 := F32.pack false (F32.roundUnits (n * 2 ^ 149) 1)

/-- `floor(v)` of a finite v ≥ 0, as an integer (R13; R24: every rule bounds the operand first). -/
def F32.floorNat (x : F32) : Nat := F32.units x / 2 ^ 149

/-- `roundEven(v)` of a finite v ≥ 0, as an integer, ties to even (R13, R312). -/
def F32.roundEvenNat (x : F32) : Nat :=
  let t := F32.units x / 2 ^ 149
  let r := F32.units x % 2 ^ 149
  if 2 ^ 149 < 2 * r ∨ (2 * r = 2 ^ 149 ∧ t % 2 = 1) then t + 1 else t

/-- A value in [0, 1], either zero included: where a normalised position may lie (R55). -/
def F32.inUnit (x : F32) : Bool := F32.le 0#32 x && F32.le x 0x3F800000#32

end Sys2Proof
end

