-- ==== Sys2Proof/Config.lean ====
section
/-! DEFINITION. The configuration record of 00_scope.md R7 to R9: every parameter the spec leaves OPEN,
each with its stated constraint as a proof field, so that a configuration that breaks a constraint
cannot be built (93_implementation_defined.md: `refuse` the configuration). `Config.cfg` is the one
configuration of the modelled block. It is opaque and has no body: nothing can be proved of it but
the constraints, so a theorem about the machine holds for every valid configuration. The values
after `:=` below only show that a valid configuration exists; no proof can see that they are used.

Fields without a constraint here have none in R8 or R9. -/

namespace Sys2Proof

/-- `ZERO`, `ONE`, `HALF`, `TWO_PI`, `INV_SQRT8` (R21), and the literals 2.0, −2.0, 4.0 and 40.0
that the rules write out. -/
def F32.zero : F32 := 0x00000000#32
@[inherit_doc F32.zero] def F32.one : F32 := 0x3F800000#32
@[inherit_doc F32.zero] def F32.half : F32 := 0x3F000000#32
@[inherit_doc F32.zero] def F32.twoPi : F32 := 0x40C90FDB#32
@[inherit_doc F32.zero] def F32.invSqrt8 : F32 := 0x3EB504F3#32
@[inherit_doc F32.zero] def F32.two : F32 := 0x40000000#32
@[inherit_doc F32.zero] def F32.negTwo : F32 := 0xC0000000#32
@[inherit_doc F32.zero] def F32.four : F32 := 0x40800000#32
@[inherit_doc F32.zero] def F32.forty : F32 := 0x42200000#32

/-- `TRH_LOW_FC` = 144.0 (R8). -/
def Config.trhLowFc : F32 := 0x43100000#32
/-- `TRH_HIGH_FC` = 636.0 (R8). -/
def Config.trhHighFc : F32 := 0x441F0000#32
/-- `TRH_DEPTH_SCALE` = 1.25 (R8). -/
def Config.trhDepthScale : F32 := 0x3FA00000#32

/-- A biquad design request: centre or corner frequency, Q, gain in dB (R8, `TRH_EQ_LS` and the
two `TRH_EQ_PK`). -/
structure EqBand where
  fc : F32
  q : F32
  gainDb : F32
deriving DecidableEq, Repr

/-- R8: "fc > 0, Q > 0, finite". -/
def EqBand.valid (b : EqBand) : Bool :=
  F32.lt 0#32 b.fc && F32.lt 0#32 b.q &&
    (F32.isFinite b.fc && F32.isFinite b.q && F32.isFinite b.gainDb)

/-- `PlateParams` (44_reverb.md R282). -/
structure PlateParams where
  decay : F32
  diffusion : F32
  predelay : F32
  inhc : F32
  tankhc : F32
  speed : F32
  depth : F32
  shape : F32
deriving DecidableEq, Repr

/-- `PLATE.State`: the black box's state, held as a list of words of any length. DESIGN CHOICE (log
entry 4): the spec leaves the type open, and a list of words encodes any finite memory. -/
abbrev PlateState := List Word

/-- The state after `n` calls of a `PLATE.step` on the input pair (0, 0) (R307, Silence). DESIGN CHOICE (log
entry 20): the pair is (+0, +0); R307 does not say whether −0 counts as a zero input. -/
def plateIdle (step : PlateState → F32 → F32 → PlateState × F32 × F32) : Nat → PlateState → PlateState
  | 0, σ => σ
  | n + 1, σ => plateIdle step n (step σ 0#32 0#32).1

/-- The `PLATE` black box (44_reverb.md R280 to R284, R306), with the two requirements of R307. -/
structure Plate where
  /-- `PLATE.init` (R281). -/
  init : F32 → PlateState := fun _ => []
  /-- `PLATE.apply` (R282). -/
  apply : PlateState → PlateParams → PlateState := fun σ _ => σ
  /-- `PLATE.step` (R283): the next state and the wet pair. -/
  step : PlateState → F32 → F32 → PlateState × F32 × F32 := fun σ _ _ => (σ, 0#32, 0#32)
  /-- `PLATE.clear` (R284). -/
  clear : PlateState → PlateState := fun σ => σ
  /-- Idempotence (R307). -/
  clear_idem : ∀ σ, clear (clear σ) = clear σ := by intros; rfl
  /-- Silence (R307): after `clear`, zero inputs give zero wet pairs, of either sign. DESIGN CHOICE (log
  entry 20): it is required of +0 inputs only, the weaker reading of R307's "inputs (0, 0)". -/
  clear_silent : ∀ σ n,
      F32.isZero (step (plateIdle step n (clear σ)) 0#32 0#32).2.1 = true ∧
      F32.isZero (step (plateIdle step n (clear σ)) 0#32 0#32).2.2 = true := by
    intros; exact ⟨rfl, rfl⟩
deriving Inhabited

/-- The configuration record `Cfg` (R7 to R9). -/
structure Cfg where
  /-- FREE VALUE (R19, log entry 2): the word from which the n-th NaN drawn since the beginning
  takes its sign and payload. -/
  freeNaN : Nat → Word := fun _ => 0#32
  /-- `FTZ` (R17). -/
  ftz : Bool := false
  /-- `SIN`, `COS`, `EXP`, `POW10`, `ATAN`, `TANH` (R20): total, depending on the operand alone, which is
  handed over unflushed (DESIGN CHOICE, log entry 19). -/
  sin : F32 → F32 := fun x => x
  /-- As `sin`. -/
  cos : F32 → F32 := fun x => x
  /-- As `sin`. -/
  exp : F32 → F32 := fun x => x
  /-- As `sin`. -/
  pow10 : F32 → F32 := fun x => x
  /-- As `sin`. -/
  atan : F32 → F32 := fun x => x
  /-- As `sin`. -/
  tanh : F32 → F32 := fun x => x
  /-- `BASE`, 64-byte aligned (R8, R87). -/
  base : Word := 0#32
  base_aligned : base.toNat % 64 = 0 := by decide
  /-- `MAX_DELAY_SAMPLES` (R8). -/
  maxDelaySamples : Nat := 1
  maxDelay_range : 1 ≤ maxDelaySamples ∧ maxDelaySamples ≤ 2 ^ 24 - 2 := by decide
  /-- `DELAY_TIME_MIN_SECONDS` (R8). -/
  delayTimeMinSeconds : F32 := 0#32
  delayTimeMin_range :
    F32.isFinite delayTimeMinSeconds = true ∧ F32.le 0#32 delayTimeMinSeconds = true := by decide
  /-- `DLY_SMOOTH` (R8). -/
  dlySmooth : F32 := F32.one
  dlySmooth_range : F32.lt 0#32 dlySmooth = true ∧ F32.le dlySmooth F32.one = true := by decide
  /-- `RSQ_K` (R8). -/
  rsqK : F32 := F32.one
  rsqK_range : F32.isFinite rsqK = true ∧ F32.lt 0#32 rsqK = true := by decide
  /-- `BQ_FC_MIN` to `BQ_GAIN_MAX_DB` (R8). -/
  bqFcMin : F32 := F32.one
  /-- As `bqFcMin`. -/
  bqFcMaxFrac : F32 := 0x3E800000#32
  /-- As `bqFcMin`. -/
  bqQMin : F32 := F32.one
  /-- As `bqFcMin`. -/
  bqQMax : F32 := F32.one
  /-- As `bqFcMin`. -/
  bqGainMinDb : F32 := 0#32
  /-- As `bqFcMin`. -/
  bqGainMaxDb : F32 := 0#32
  bq_range :
    F32.lt 0#32 bqFcMin = true ∧ F32.lt 0#32 bqFcMaxFrac = true ∧
      F32.lt bqFcMaxFrac F32.half = true ∧ F32.lt 0#32 bqQMin = true ∧
      F32.le bqQMin bqQMax = true ∧ F32.le bqGainMinDb 0#32 = true ∧
      F32.le 0#32 bqGainMaxDb = true := by decide
  /-- `OP_FC_MIN`, `OP_FC_MAX_FRAC` (R8). -/
  opFcMin : F32 := F32.one
  /-- As `opFcMin`. -/
  opFcMaxFrac : F32 := 0x3E800000#32
  op_range :
    F32.lt 0#32 opFcMin = true ∧ F32.lt 0#32 opFcMaxFrac = true ∧
      F32.lt opFcMaxFrac F32.half = true := by decide
  /-- `TRH_EQ_HP_FC`, `TRH_EQ_LP_FC` (R8). -/
  trhEqHpFc : F32 := F32.one
  /-- As `trhEqHpFc`. -/
  trhEqLpFc : F32 := F32.one
  trhEqPass_range :
    F32.isFinite trhEqHpFc = true ∧ F32.lt 0#32 trhEqHpFc = true ∧
      F32.isFinite trhEqLpFc = true ∧ F32.lt 0#32 trhEqLpFc = true := by decide
  /-- `TRH_EQ_LS`, `TRH_EQ_PK1`, `TRH_EQ_PK2` (R8). -/
  trhEqLs : EqBand := ⟨F32.one, F32.one, 0#32⟩
  /-- As `trhEqLs`. -/
  trhEqPk1 : EqBand := ⟨F32.one, F32.one, 0#32⟩
  /-- As `trhEqLs`. -/
  trhEqPk2 : EqBand := ⟨F32.one, F32.one, 0#32⟩
  trhEqBand_valid :
    trhEqLs.valid = true ∧ trhEqPk1.valid = true ∧ trhEqPk2.valid = true := by decide
  /-- `RVH_MOD_MAX` (R8). -/
  rvhModMax : Nat := 0
  /-- `RVH_LEN[0..7]` (R8, R311). -/
  rvhLen : Fin 8 → Nat := fun k => [2, 3, 5, 7, 11, 13, 17, 19].getD k.val 1
  rvhLen_coprime : ∀ i j, i ≠ j → Nat.Coprime (rvhLen i) (rvhLen j) := by decide
  rvhLen_range : ∀ k, rvhModMax + 1 ≤ rvhLen k ∧ rvhLen k + rvhModMax ≤ 2 ^ 24 - 2 := by decide
  /-- `RVH_MOD_MASK` (R8, R314). -/
  rvhModMask : BitVec 8 := 0x0F#8
  rvhModMask_four : (List.range 8).countP (fun k => rvhModMask.getLsbD k) = 4 := by decide
  /-- `RVH_SPEED_TABLE[0..2]`, in Hz (R8). -/
  rvhSpeedTable : Fin 3 → F32 := fun _ => 0#32
  rvhSpeed_range :
    ∀ p, F32.isFinite (rvhSpeedTable p) = true ∧ F32.le 0#32 (rvhSpeedTable p) = true := by decide
  /-- `RVH_DEPTH_TABLE[0..2]`, in samples (R8). -/
  rvhDepthTable : Fin 3 → F32 := fun _ => 0#32
  rvhDepth_range :
    ∀ p, F32.le 0#32 (rvhDepthTable p) = true ∧
      F32.le (rvhDepthTable p) (F32.ofNat rvhModMax) = true := by decide
  /-- `RVH_AP_LEN[0..1]` (R8). -/
  rvhApLen : Fin 2 → Nat := fun _ => 1
  rvhApLen_pos : ∀ j, 1 ≤ rvhApLen j := by decide
  /-- `RVH_AP_COEF[0..1]` (R8). -/
  rvhApCoef : Fin 2 → F32 := fun _ => 0#32
  rvhApCoef_range :
    ∀ j, F32.lt (F32.neg F32.one) (rvhApCoef j) = true ∧ F32.lt (rvhApCoef j) F32.one = true := by
    decide
  /-- `RVH_DECAY_MAP`: [0,1] into [0,1) (R8). -/
  rvhDecayMap : F32 → F32 := fun _ => 0#32
  rvhDecayMap_range :
    ∀ v, F32.inUnit v = true →
      F32.le 0#32 (rvhDecayMap v) = true ∧ F32.lt (rvhDecayMap v) F32.one = true := by
    intros; exact ⟨rfl, rfl⟩
  /-- `RVH_HC_MAP`: [0,1] into (0,1] (R8). -/
  rvhHcMap : F32 → F32 := fun _ => F32.one
  rvhHcMap_range :
    ∀ v, F32.inUnit v = true →
      F32.lt 0#32 (rvhHcMap v) = true ∧ F32.le (rvhHcMap v) F32.one = true := by
    intros; exact ⟨rfl, rfl⟩
  /-- `RVH_PREDELAY_MAX` (R8). -/
  rvhPredelayMax : Nat := 0
  rvhPredelayMax_range : rvhPredelayMax ≤ 2 ^ 24 - 1 := by decide
  /-- `RVH_OUT_GAIN` (R8). -/
  rvhOutGain : F32 := F32.one
  rvhOutGain_finite : F32.isFinite rvhOutGain = true := by decide
  /-- `RVS_LEN` (R8). -/
  rvsLen : Nat := 2
  rvsLen_range : 2 ≤ rvsLen ∧ rvsLen ≤ 2 ^ 24 - 2 := by decide
  /-- `RVS_TAP[0..1]` (R8). -/
  rvsTap : Fin 2 → Nat := fun _ => 1
  rvsTap_range : ∀ j, 1 ≤ rvsTap j ∧ rvsTap j < rvsLen := by decide
  /-- `RVS_TAP_GAIN[0..1]` (R8). -/
  rvsTapGain : Fin 2 → F32 := fun _ => 0#32
  rvsTapGain_finite : ∀ j, F32.isFinite (rvsTapGain j) = true := by decide
  /-- `RVS_DRIVE` (R8). -/
  rvsDrive : F32 := F32.one
  rvsDrive_range : F32.isFinite rvsDrive = true ∧ F32.lt 0#32 rvsDrive = true := by decide
  /-- `RVS_AP_LEN[0..3]` (R8). -/
  rvsApLen : Fin 4 → Nat := fun _ => 1
  rvsApLen_pos : ∀ j, 1 ≤ rvsApLen j := by decide
  /-- `RVS_AP_COEF[0..3]` (R8). -/
  rvsApCoef : Fin 4 → F32 := fun _ => 0#32
  rvsApCoef_range :
    ∀ j, F32.lt (F32.neg F32.one) (rvsApCoef j) = true ∧ F32.lt (rvsApCoef j) F32.one = true := by
    decide
  /-- `RVS_DAMP_COEF` (R8). -/
  rvsDampCoef : F32 := F32.one
  rvsDampCoef_range : F32.lt 0#32 rvsDampCoef = true ∧ F32.le rvsDampCoef F32.one = true := by
    decide
  /-- `RVS_DECAY_MAX` (R8). -/
  rvsDecayMax : F32 := F32.half
  rvsDecayMax_range : F32.lt 0#32 rvsDecayMax = true ∧ F32.lt rvsDecayMax F32.one = true := by
    decide
  /-- `RVS_OUT_GAIN` (R8). -/
  rvsOutGain : F32 := F32.one
  rvsOutGain_finite : F32.isFinite rvsOutGain = true := by decide
  /-- `PLATE` (R280). -/
  plate : Plate := default
  /-- `RVP_SPEED_TABLE`, `RVP_DEPTH_TABLE`, `RVP_SHAPE_TABLE` (R8). -/
  rvpSpeedTable : Fin 3 → F32 := fun _ => 0#32
  /-- As `rvpSpeedTable`. -/
  rvpDepthTable : Fin 3 → F32 := fun _ => 0#32
  /-- As `rvpSpeedTable`. -/
  rvpShapeTable : Fin 3 → F32 := fun _ => 0#32
  rvpTable_finite :
    ∀ p, F32.isFinite (rvpSpeedTable p) = true ∧ F32.isFinite (rvpDepthTable p) = true ∧
      F32.isFinite (rvpShapeTable p) = true := by decide
  /-- The thirteen defaults `DEF_*` that `INIT` loads (R9). -/
  defDlyTime : F32 := F32.one
  /-- As `defDlyTime`. -/
  defDlyFeedback : F32 := 0#32
  /-- As `defDlyTime`. -/
  defTrmSpeed : F32 := 0#32
  /-- As `defDlyTime`. -/
  defTrmDepth : F32 := 0#32
  /-- As `defDlyTime`. -/
  defRvMix : F32 := 0#32
  /-- As `defDlyTime`. -/
  defRvDecay : F32 := 0#32
  /-- As `defDlyTime`. -/
  defRvDiffusion : F32 := 0#32
  /-- As `defDlyTime`. -/
  defRvPredelay : F32 := 0#32
  /-- As `defDlyTime`. -/
  defRvInputHc : F32 := 0#32
  /-- As `defDlyTime`. -/
  defRvTankHc : F32 := 0#32
  /-- As `defDlyTime`. -/
  defRvModSpeedPos : Nat := 0
  /-- As `defDlyTime`. -/
  defRvModDepthPos : Nat := 0
  /-- As `defDlyTime`. -/
  defRvModShapePos : Nat := 0
  def_finite :
    F32.isFinite defDlyTime = true ∧ F32.isFinite defDlyFeedback = true ∧
      F32.isFinite defTrmSpeed = true ∧ F32.isFinite defTrmDepth = true ∧
      F32.isFinite defRvMix = true ∧ F32.isFinite defRvDecay = true ∧
      F32.isFinite defRvDiffusion = true ∧ F32.isFinite defRvPredelay = true ∧
      F32.isFinite defRvInputHc = true ∧ F32.isFinite defRvTankHc = true := by decide
  defPos_range : defRvModSpeedPos ≤ 2 ∧ defRvModDepthPos ≤ 2 ∧ defRvModShapePos ≤ 2 := by decide
deriving Inhabited

/-- The configuration of the modelled block: any valid one (R7). -/
opaque Config.cfg : Cfg

end Sys2Proof
end

