-- ==== Sys2Proof/Machine/Datapath.lean ====
section
/-! DEFINITION. The datapath's operations (00_scope.md R13, R16 to R19): binary32 operations under the
configuration's subnormal rule, each NaN result drawn. -/

namespace Sys2Proof

/-- A computation of the datapath: it reads and advances the count of NaNs drawn so far (R19). -/
abbrev Dp (α : Type) := StateM Nat α

/-- An operand or result under `FTZ`: a subnormal becomes the zero of its sign (R17). -/
def Cfg.flush (c : Cfg) (x : F32) : F32 :=
  if F32.isSubnormal x && c.ftz then F32.zeroLike x else x

/-- The next NaN: any NaN encoding (R19), a FREE VALUE (log entry 2). -/
def Cfg.draw (c : Cfg) : Dp F32 := fun k => (F32.nanOf (c.freeNaN k), k + 1)

/-- The result of an operation: flushed (R17), or a drawn NaN (R19). -/
def Cfg.finish (c : Cfg) : Option F32 → Dp F32
  | some r => pure (c.flush r)
  | none => c.draw

/-- `a + b` (R13, R16, R17). -/
def Cfg.add (c : Cfg) (x y : F32) : Dp F32 := c.finish (F32.add (c.flush x) (c.flush y))

/-- `a - b` (R13, R16, R17). -/
def Cfg.sub (c : Cfg) (x y : F32) : Dp F32 := c.finish (F32.sub (c.flush x) (c.flush y))

/-- `a * b` (R13, R16, R17). -/
def Cfg.mul (c : Cfg) (x y : F32) : Dp F32 := c.finish (F32.mul (c.flush x) (c.flush y))

/-- `a / b` (R13, R16, R17). -/
def Cfg.div (c : Cfg) (x y : F32) : Dp F32 := c.finish (F32.div (c.flush x) (c.flush y))

/-- `sqrt(a)` (R13, R16, R17). -/
def Cfg.sqrt (c : Cfg) (x : F32) : Dp F32 := c.finish (F32.sqrt (c.flush x))

/-- `clamp(v, lo, hi)` = `min(max(v, lo), hi)` (R13); above an upper bound below `lo` it is `hi`. -/
def Cfg.clamp (c : Cfg) (v lo hi : F32) : Dp F32 := do
  let m ← c.finish (F32.max (c.flush v) (c.flush lo))
  c.finish (F32.min (c.flush m) (c.flush hi))

/-- The clamp of a normalised value, `clamp(v, 0.0, ONE)` (R205, R231, R272). -/
def Cfg.clampUnit (c : Cfg) (v : F32) : Dp F32 := c.clamp v F32.zero F32.one

/-- `a < b`, a subnormal operand read as zero under `FTZ` (R17, R150). -/
def Cfg.lt (c : Cfg) (x y : F32) : Bool := F32.lt (c.flush x) (c.flush y)

/-- `a ≤ b`, a subnormal operand read as zero under `FTZ` (R17). -/
def Cfg.le (c : Cfg) (x y : F32) : Bool := F32.le (c.flush x) (c.flush y)

end Sys2Proof
end

