-- ==== Sys2Proof/Syntax.lean ====
section
/-! DEFINITION. The command set (30_encoding.md R112 to R114), one constructor per row of the opcode
table, and the host's accesses to the register window (20_memory.md R80 to R86). Operands are not
fields of a command (R111): they are read from `ARG0..ARG2`, so no constructor has an argument. -/

namespace Sys2Proof

/-- The ten units (R112). -/
inductive UnitId where
  /-- `BQ`: biquad section. -/
  | bq
  /-- `OP`: one-pole filter. -/
  | op
  /-- `LFO`: oscillator. -/
  | lfo
  /-- `DLY`: stereo feedback delay. -/
  | dly
  /-- `TRS`: sine tremolo. -/
  | trs
  /-- `TRQ`: square tremolo. -/
  | trq
  /-- `TRH`: harmonic tremolo. -/
  | trh
  /-- `RVP`: plate reverb. -/
  | rvp
  /-- `RVH`: hall reverb. -/
  | rvh
  /-- `RVS`: spring reverb. -/
  | rvs
deriving DecidableEq, Repr

/-- The 72 commands (R114). -/
inductive Instr where
  /-- `BQ.INIT`: ARG0 = fs f32 (R150). -/
  | bqInit
  /-- `BQ.PROCESS`: ARG0 = x f32 (R151). -/
  | bqProcess
  /-- `BQ.CLEAR`: no operand (R152). -/
  | bqClear
  /-- `BQ.SET_PEAKING`: ARG0 = fc f32 (Hz), ARG1 = Q f32, ARG2 = gain f32 (dB) (R153). -/
  | bqSetPeaking
  /-- `BQ.SET_LOWSHELF`: ARG0 = fc f32 (Hz), ARG1 = Q f32, ARG2 = gain f32 (dB) (R154). -/
  | bqSetLowshelf
  /-- `OP.INIT`: ARG0 = fs f32 (R160). -/
  | opInit
  /-- `OP.PROCESS`: ARG0 = x f32 (R161). -/
  | opProcess
  /-- `OP.CLEAR`: no operand (R162). -/
  | opClear
  /-- `OP.SET_LOWPASS`: ARG0 = fc f32 (Hz) (R163). -/
  | opSetLowpass
  /-- `OP.SET_HIGHPASS`: ARG0 = fc f32 (Hz) (R164). -/
  | opSetHighpass
  /-- `LFO.INIT`: ARG0 = fs f32 (R190). -/
  | lfoInit
  /-- `LFO.PROCESS`: no operand (R191). -/
  | lfoProcess
  /-- `LFO.CLEAR`: no operand (R192). -/
  | lfoClear
  /-- `LFO.SET_FREQ`: ARG0 = hz f32 (R193). -/
  | lfoSetFreq
  /-- `LFO.SET_AMP`: ARG0 = a f32 (R194). -/
  | lfoSetAmp
  /-- `LFO.SET_WAVEFORM`: ARG0 = wave u32 (R195). -/
  | lfoSetWaveform
  /-- `DLY.INIT`: ARG0 = fs f32 (R200). -/
  | dlyInit
  /-- `DLY.PROCESS`: ARG0 = inL f32, ARG1 = inR f32 (R202). -/
  | dlyProcess
  /-- `DLY.CLEAR`: no operand (R203). -/
  | dlyClear
  /-- `DLY.SET_DELAY_TIME`: ARG0 = samples f32 (R204). -/
  | dlySetDelayTime
  /-- `DLY.SET_FEEDBACK`: ARG0 = fb f32 (R205). -/
  | dlySetFeedback
  /-- `TRS.INIT`: ARG0 = fs f32 (R235). -/
  | trsInit
  /-- `TRS.PROCESS`: ARG0 = inL f32, ARG1 = inR f32 (R236). -/
  | trsProcess
  /-- `TRS.SET_SPEED`: ARG0 = hz f32 (R237). -/
  | trsSetSpeed
  /-- `TRS.SET_DEPTH`: ARG0 = d f32 (R238). -/
  | trsSetDepth
  /-- `TRS.GET_LAST_LFO`: no operand (R239). -/
  | trsGetLastLfo
  /-- `TRQ.INIT`: ARG0 = fs f32 (R240). -/
  | trqInit
  /-- `TRQ.PROCESS`: ARG0 = inL f32, ARG1 = inR f32 (R241). -/
  | trqProcess
  /-- `TRQ.SET_SPEED`: ARG0 = hz f32 (R242). -/
  | trqSetSpeed
  /-- `TRQ.SET_DEPTH`: ARG0 = d f32 (R243). -/
  | trqSetDepth
  /-- `TRQ.GET_LAST_LFO`: no operand (R244). -/
  | trqGetLastLfo
  /-- `TRH.INIT`: ARG0 = fs f32 (R250). -/
  | trhInit
  /-- `TRH.PROCESS`: ARG0 = inL f32, ARG1 = inR f32 (R251). -/
  | trhProcess
  /-- `TRH.SET_SPEED`: ARG0 = hz f32 (R252). -/
  | trhSetSpeed
  /-- `TRH.SET_DEPTH`: ARG0 = d f32 (R253). -/
  | trhSetDepth
  /-- `TRH.GET_LAST_LFO`: no operand (R254). -/
  | trhGetLastLfo
  /-- `RVP.INIT`: ARG0 = fs f32 (R290). -/
  | rvpInit
  /-- `RVP.PROCESS`: ARG0 = inL f32, ARG1 = inR f32 (R291). -/
  | rvpProcess
  /-- `RVP.CLEAR`: no operand (R292). -/
  | rvpClear
  /-- `RVP.SET_MIX`: ARG0 = m f32 (R293). -/
  | rvpSetMix
  /-- `RVP.SET_DECAY`: ARG0 = v f32 (R294). -/
  | rvpSetDecay
  /-- `RVP.SET_DIFFUSION`: ARG0 = v f32 (R295). -/
  | rvpSetDiffusion
  /-- `RVP.SET_PREDELAY`: ARG0 = v f32 (R296). -/
  | rvpSetPredelay
  /-- `RVP.SET_INPUT_HIGHCUT`: ARG0 = v f32 (R297). -/
  | rvpSetInputHighcut
  /-- `RVP.SET_TANK_HIGHCUT`: ARG0 = v f32 (R298). -/
  | rvpSetTankHighcut
  /-- `RVP.SET_TANK_MOD_SPEED`: ARG0 = pos u32 (R299). -/
  | rvpSetTankModSpeed
  /-- `RVP.SET_TANK_MOD_DEPTH`: ARG0 = pos u32 (R300). -/
  | rvpSetTankModDepth
  /-- `RVP.SET_TANK_MOD_SHAPE`: ARG0 = pos u32 (R301). -/
  | rvpSetTankModShape
  /-- `RVH.INIT`: ARG0 = fs f32 (R330). -/
  | rvhInit
  /-- `RVH.PROCESS`: ARG0 = inL f32, ARG1 = inR f32 (R331). -/
  | rvhProcess
  /-- `RVH.CLEAR`: no operand (R332). -/
  | rvhClear
  /-- `RVH.SET_MIX`: ARG0 = m f32 (R333). -/
  | rvhSetMix
  /-- `RVH.SET_DECAY`: ARG0 = v f32 (R334). -/
  | rvhSetDecay
  /-- `RVH.SET_DIFFUSION`: ARG0 = v f32 (R335). -/
  | rvhSetDiffusion
  /-- `RVH.SET_PREDELAY`: ARG0 = v f32 (R336). -/
  | rvhSetPredelay
  /-- `RVH.SET_INPUT_HIGHCUT`: ARG0 = v f32 (R337). -/
  | rvhSetInputHighcut
  /-- `RVH.SET_TANK_HIGHCUT`: ARG0 = v f32 (R338). -/
  | rvhSetTankHighcut
  /-- `RVH.SET_TANK_MOD_SPEED`: ARG0 = pos u32 (R339). -/
  | rvhSetTankModSpeed
  /-- `RVH.SET_TANK_MOD_DEPTH`: ARG0 = pos u32 (R340). -/
  | rvhSetTankModDepth
  /-- `RVH.SET_TANK_MOD_SHAPE`: ARG0 = pos u32 (R341). -/
  | rvhSetTankModShape
  /-- `RVS.INIT`: ARG0 = fs f32 (R360). -/
  | rvsInit
  /-- `RVS.PROCESS`: ARG0 = inL f32, ARG1 = inR f32 (R361). -/
  | rvsProcess
  /-- `RVS.CLEAR`: no operand (R362). -/
  | rvsClear
  /-- `RVS.SET_MIX`: ARG0 = m f32 (R363). -/
  | rvsSetMix
  /-- `RVS.SET_DECAY`: ARG0 = v f32 (R364). -/
  | rvsSetDecay
  /-- `RVS.SET_DIFFUSION`: ARG0 = v f32 (R365). -/
  | rvsSetDiffusion
  /-- `RVS.SET_PREDELAY`: ARG0 = v f32 (R366). -/
  | rvsSetPredelay
  /-- `RVS.SET_INPUT_HIGHCUT`: ARG0 = v f32 (R367). -/
  | rvsSetInputHighcut
  /-- `RVS.SET_TANK_HIGHCUT`: ARG0 = v f32 (R368). -/
  | rvsSetTankHighcut
  /-- `RVS.SET_TANK_MOD_SPEED`: ARG0 = pos u32 (R369). -/
  | rvsSetTankModSpeed
  /-- `RVS.SET_TANK_MOD_DEPTH`: ARG0 = pos u32 (R370). -/
  | rvsSetTankModDepth
  /-- `RVS.SET_TANK_MOD_SHAPE`: ARG0 = pos u32 (R371). -/
  | rvsSetTankModShape
deriving DecidableEq, Repr

/-- The cause codes of a recorded error (60_exceptions.md R401). -/
inductive Cause where
  /-- 0x01: command word bits 31:12 not all zero. -/
  | reservedBits
  /-- 0x02: `UNIT` field 0xA or above. -/
  | badUnit
  /-- 0x03: an `OP` the unit does not define. -/
  | badOp
  /-- 0x04: the unit has not completed an `INIT` since reset. -/
  | notInit
  /-- 0x05: a non-finite f32 operand, or `INIT` with fs ≤ 0. -/
  | badOperand
  /-- 0x06: a write to an offset other than `CMD`, `ARG0`, `ARG1`, `ARG2`. -/
  | badRegister
deriving DecidableEq, Repr

/-- The width of a host access; only 32 bits is admitted (R82). -/
inductive AccessWidth where
  | w8
  | w16
  | w32
  | w64
deriving DecidableEq, Repr

/-- The direction of a host access. -/
inductive AccessKind where
  | read
  | write
deriving DecidableEq, Repr

/-- One host access, as the block sees it: `off` is the host's address minus `BASE` (R86; R88: the
block sees window offsets only), and `data` the word written (a read carries none: 0). -/
structure Access where
  kind : AccessKind
  width : AccessWidth
  off : Word
  data : Word
deriving DecidableEq, Repr

/-- What can reach the block from outside, one at a time (R23, R84, R450). -/
inductive HostEvent where
  /-- The one host agent makes an access. -/
  | access (a : Access)
  /-- Two host agents access the window concurrently (R97). -/
  | concurrent (a b : Access)
  /-- The platform asserts the reset input (R450). -/
  | blockReset
deriving DecidableEq, Repr

end Sys2Proof
end

