-- ==== Sys2Proof/Machine/State.lean ====
section
/-! DEFINITION. The machine's state, plain data (10_state.md; INVENTORY.md "State"), the reasons a step
can stop, and the state after reset (70_reset_and_hazards.md R450). The operations over it stand in
the other files of this folder. -/

namespace Sys2Proof.Machine

/-- Sample memory of one delay line (20_memory.md R80(b), R89): (index, sample) pairs, indices strictly
rising, no sample equal to +0, which is what an unlisted index reads as (`Memory.wf`). -/
abbrev Memory := List (Nat × F32)

/-- A delay line: its buffer and write index (R89). Its length is the configuration's. -/
structure Line where
  buf : Memory
  w : Nat
deriving DecidableEq, Repr

/-- Eight like things: the FDN lines and damping states of the Hall (R57), the Hadamard vector (R317). -/
structure Eight (α : Type) where
  a0 : α
  a1 : α
  a2 : α
  a3 : α
  a4 : α
  a5 : α
  a6 : α
  a7 : α
deriving DecidableEq, Repr

/-- A normalised biquad coefficient set (R49, R147). -/
structure BqCoef where
  b0 : F32
  b1 : F32
  b2 : F32
  a1 : F32
  a2 : F32
deriving DecidableEq, Repr

/-- Direct Form I history (R49). -/
structure BqHist where
  x1 : F32
  x2 : F32
  y1 : F32
  y2 : F32
deriving DecidableEq, Repr

/-- Unit BQ (R48, R49). -/
structure BqUnit where
  init : Bool
  fs : F32
  c : BqCoef
  h : BqHist
deriving DecidableEq, Repr

/-- The mode of unit OP (R50). -/
inductive OpMode where
  | lp
  | hp
deriving DecidableEq, Repr

/-- Unit OP (R48, R50); `y` is the low-pass state `s.y`. -/
structure OpUnit where
  init : Bool
  fs : F32
  mode : OpMode
  a : F32
  y : F32
deriving DecidableEq, Repr

/-- The waveshapes (R51). -/
inductive Wave where
  | sine
  | rsquare
  | triangle
deriving DecidableEq, Repr

/-- An oscillator (R51). -/
structure Osc where
  phase : F32
  freq : F32
  inc : F32
  amp : F32
  wave : Wave
  eoc : Bool
  eorh : Bool
deriving DecidableEq, Repr

/-- Unit LFO (R48, R51). -/
structure LfoUnit where
  init : Bool
  fs : F32
  o : Osc
deriving DecidableEq, Repr

/-- Unit DLY (R48, R52). -/
structure DlyUnit where
  init : Bool
  fs : F32
  lineL : Line
  lineR : Line
  dt : F32
  dc : F32
  fb : F32
  dmax : F32
  dlo : F32
deriving DecidableEq, Repr

/-- Units TRS and TRQ (R48, R53). -/
structure TrmUnit where
  init : Bool
  fs : F32
  o : Osc
  depth : F32
  last : F32
deriving DecidableEq, Repr

/-- The filter memories of one channel of unit TRH (R54). -/
structure TrhChan where
  lo : F32
  hi : F32
  eqhp : F32
  eqlp : F32
  eqls : BqHist
  eqpk1 : BqHist
  eqpk2 : BqHist
deriving DecidableEq, Repr

/-- The coefficients of unit TRH's seven filters (R54, R249). -/
structure TrhCoef where
  aLo : F32
  aHi : F32
  aEqhp : F32
  aEqlp : F32
  ls : BqCoef
  pk1 : BqCoef
  pk2 : BqCoef
deriving DecidableEq, Repr

/-- Unit TRH (R48, R54). -/
structure TrhUnit where
  init : Bool
  fs : F32
  o : Osc
  depth : F32
  last : F32
  k : TrhCoef
  chL : TrhChan
  chR : TrhChan
deriving DecidableEq, Repr

/-- The nine parameters of a reverb unit (R55). -/
structure RvParams where
  mix : F32
  decay : F32
  diffusion : F32
  predelay : F32
  inhc : F32
  tankhc : F32
  spos : Fin 3
  dpos : Fin 3
  shpos : Fin 3
deriving DecidableEq, Repr

/-- Unit RVP (R48, R55, R56). -/
structure RvpUnit where
  init : Bool
  fs : F32
  p : RvParams
  sigma : PlateState
deriving DecidableEq, Repr

/-- Unit RVH (R48, R55, R57): `pre` is the line `P`, `ln` the lines `LN0..LN7`, `z` the damping
states. -/
structure RvhUnit where
  init : Bool
  fs : F32
  p : RvParams
  pre : Line
  pd : Nat
  ap0 : Line
  ap1 : Line
  ln : Eight Line
  z : Eight F32
  g : F32
  ad : F32
  o : Osc
deriving DecidableEq, Repr

/-- Unit RVS (R48, R55, R58): `wg` is the waveguide `WG`, `z` the damping state `z.y`. -/
structure RvsUnit where
  init : Bool
  fs : F32
  p : RvParams
  wg : Line
  da0 : Line
  da1 : Line
  da2 : Line
  da3 : Line
  z : F32
  g : F32
deriving DecidableEq, Repr

/-- The state of the block, with the host's side of the bus. The window registers are those of R42:
`CMD` and the reserved offsets have no storage, `ID` is a constant, and `INIT_DONE` mirrors the
units' `init` (R43, R48), so none of them is a field. -/
structure State where
  /-- `ARG0`, `ARG1`, `ARG2` (R42). -/
  arg0 : Word
  arg1 : Word
  arg2 : Word
  /-- `RES0`, `RES1` (R42). -/
  res0 : Word
  res1 : Word
  /-- `STATUS.ERR` (R43). -/
  err : Bool
  /-- `ERRINFO[7:0]`, `CAUSE` (R44). -/
  cause : BitVec 8
  /-- `ERRCMD` (R45). -/
  errcmd : Word
  bq : BqUnit
  op : OpUnit
  lfo : LfoUnit
  dly : DlyUnit
  trs : TrmUnit
  trq : TrmUnit
  trh : TrhUnit
  rvp : RvpUnit
  rvh : RvhUnit
  rvs : RvsUnit
  /-- The MODEL's own: the events still to reach the block, the next one first (log entry 1). -/
  pending : List HostEvent
  /-- The MODEL's own: the value the host's last read returned (log entry 1). -/
  lastRead : Option Word
  /-- The MODEL's own: how many NaNs the datapath has drawn (R19; log entry 2). -/
  draws : Nat
deriving DecidableEq, Repr

/-- Why the machine stops with a fault. -/
inductive Fault where
  /-- Raised by a host access at an address outside the 64-byte window, where the block has no
  register (R80; 93 part 1: "not the block's; the platform decides"). Safe: the run stops. -/
  | outsideWindow
deriving DecidableEq, Repr

/-- Why the model gives a step no meaning. -/
inductive Refusal where
  /-- An instruction whose meaning is not written; no arm of `exec` answers it. Safe. -/
  | notModelled (mnemonic : String)
  /-- Raised by a host access of 8, 16 or 64 bits (R82: "refused"). Safe. -/
  | accessWidth
  /-- Raised by a host access at an offset that is no multiple of 4 (R83: "refused"). Safe. -/
  | misaligned
  /-- Raised by two host agents that access the window concurrently (R97: "refused"). Safe. -/
  | concurrentHosts
  /-- Raised by `DLY.PROCESS` and `RVH.PROCESS` when a delay-line read would lie outside the line
  (R90, R91; 93 part 1: `refuse`, "no rule performs it"). No state that a run reaches raises it
  (obligations in Certificates). Safe. -/
  | lineRange
deriving DecidableEq, Repr

/-- A line that holds +0 everywhere, its write index 0 (R93). -/
def Line.zero : Line := ⟨[], 0⟩

/-- Eight equal things. -/
def Eight.all {α : Type} (x : α) : Eight α := ⟨x, x, x, x, x, x, x, x⟩

/-- The unit state named for reset (DESIGN CHOICE, log entry 3: R450 leaves it unspecified, "any
value", and unobservable): every number 0, every line empty, every mode the first of its list. -/
def Osc.blank : Osc := ⟨0#32, 0#32, 0#32, 0#32, .sine, false, false⟩
@[inherit_doc Osc.blank] def BqCoef.blank : BqCoef := ⟨0#32, 0#32, 0#32, 0#32, 0#32⟩
/-- A zero history (R150, R250). -/
def BqHist.zero : BqHist := ⟨0#32, 0#32, 0#32, 0#32⟩
/-- The filter memories of one channel, all zero (R250). -/
def TrhChan.zero : TrhChan :=
  ⟨0#32, 0#32, 0#32, 0#32, BqHist.zero, BqHist.zero, BqHist.zero⟩
@[inherit_doc Osc.blank] def TrhCoef.blank : TrhCoef :=
  ⟨0#32, 0#32, 0#32, 0#32, BqCoef.blank, BqCoef.blank, BqCoef.blank⟩
@[inherit_doc Osc.blank] def RvParams.blank : RvParams :=
  ⟨0#32, 0#32, 0#32, 0#32, 0#32, 0#32, 0, 0, 0⟩
@[inherit_doc Osc.blank] def TrmUnit.blank : TrmUnit :=
  { init := false, fs := 0#32, o := Osc.blank, depth := 0#32, last := 0#32 }

/-- The machine right after a block reset (R42, R62, R450): the window registers 0, no error, no unit
initialised; no host access pending. -/
def State.reset : State where
  arg0 := 0#32
  arg1 := 0#32
  arg2 := 0#32
  res0 := 0#32
  res1 := 0#32
  err := false
  cause := 0#8
  errcmd := 0#32
  bq := { init := false, fs := 0#32, c := BqCoef.blank, h := BqHist.zero }
  op := { init := false, fs := 0#32, mode := .lp, a := 0#32, y := 0#32 }
  lfo := { init := false, fs := 0#32, o := Osc.blank }
  dly :=
    { init := false, fs := 0#32, lineL := Line.zero, lineR := Line.zero, dt := 0#32, dc := 0#32,
      fb := 0#32, dmax := 0#32, dlo := 0#32 }
  trs := TrmUnit.blank
  trq := TrmUnit.blank
  trh :=
    { init := false, fs := 0#32, o := Osc.blank, depth := 0#32, last := 0#32, k := TrhCoef.blank,
      chL := TrhChan.zero, chR := TrhChan.zero }
  rvp := { init := false, fs := 0#32, p := RvParams.blank, sigma := [] }
  rvh :=
    { init := false, fs := 0#32, p := RvParams.blank, pre := Line.zero, pd := 0, ap0 := Line.zero,
      ap1 := Line.zero, ln := Eight.all Line.zero, z := Eight.all 0#32, g := 0#32, ad := 0#32,
      o := Osc.blank }
  rvs :=
    { init := false, fs := 0#32, p := RvParams.blank, wg := Line.zero, da0 := Line.zero,
      da1 := Line.zero, da2 := Line.zero, da3 := Line.zero, z := 0#32, g := 0#32 }
  pending := []
  lastRead := none
  draws := 0

end Sys2Proof.Machine
end

