-- ==== Sys2Proof/Machine/Lines.lean ====
section
/-! DEFINITION. Sample memory and the delay-line primitives (20_memory.md R89 to R94). -/

namespace Sys2Proof.Machine

/-- What index `j` holds: its entry, or +0 where none is listed (R93). -/
def Memory.read : Memory → Nat → F32
  | [], _ => 0#32
  | (i, v) :: m, j => if i = j then v else Memory.read m j

/-- Store `v` at index `j`, keeping the canonical form: storing +0 removes the entry. -/
def Memory.write : Memory → Nat → F32 → Memory
  | [], j, v => if v = 0#32 then [] else [(j, v)]
  | (i, x) :: m, j, v =>
    if j < i then (if v = 0#32 then (i, x) :: m else (j, v) :: (i, x) :: m)
    else if j = i then (if v = 0#32 then m else (j, v) :: m)
    else (i, x) :: Memory.write m j v

/-- The canonical form from index `lo` up: indices strictly rising from at least `lo`, all below `n`, no
entry equal to +0. -/
def Memory.wfFrom (n : Nat) : Nat → Memory → Bool
  | _, [] => true
  | lo, (i, v) :: m => decide (lo ≤ i) && decide (i < n) && v != 0#32 && Memory.wfFrom n (i + 1) m

/-- The canonical form of a buffer of `n` samples. -/
def Memory.wf (n : Nat) (m : Memory) : Bool := Memory.wfFrom n 0 m

/-- A delay line of length `n`: a canonical buffer and `0 ≤ w < n` (R89). -/
def Line.wf (n : Nat) (l : Line) : Bool := decide (l.w < n) && Memory.wf n l.buf

/-- `DL.H(ℓ, k)`, for 1 ≤ k ≤ n − 1: the sample written k writes ago (R90). -/
def Line.hist (n : Nat) (l : Line) (k : Nat) : F32 := Memory.read l.buf ((l.w + n - k) % n)

/-- `DL.W(ℓ, v)` (R92). -/
def Line.push (n : Nat) (l : Line) (v : F32) : Line :=
  ⟨Memory.write l.buf l.w v, (l.w + 1) % n⟩

/-- `1 ≤ D ≤ n − 2`, the range of a fractional read (R91); false for a NaN or an infinity. -/
def lineReadable (n : Nat) (d : F32) : Bool :=
  F32.isFinite d && !F32.sign d &&
    decide (2 ^ 149 ≤ F32.units d ∧ F32.units d + 2 * 2 ^ 149 ≤ n * 2 ^ 149)

/-- `DL.R(ℓ, D)`: linear interpolation between the samples `floor(D)` and `floor(D) + 1` writes ago
(R91). Used only where `lineReadable` holds. -/
def lineRead (c : Cfg) (n : Nat) (l : Line) (d : F32) : Dp F32 := do
  let f ← c.sub d (F32.ofNat (F32.floorNat d))
  let a := l.hist n (F32.floorNat d)
  let b := l.hist n (F32.floorNat d + 1)
  let e ← c.sub b a
  let p ← c.mul e f
  c.add a p

/-- `AP(ℓ, g, x)` over a line of delay `len`, length `len + 1` (R94): the output and the line. -/
def allpass (c : Cfg) (len : Nat) (l : Line) (g x : F32) : Dp (F32 × Line) := do
  let s := l.hist (len + 1) len
  let q ← c.mul g s
  let t ← c.sub x q
  let r ← c.mul g t
  let y ← c.add s r
  pure (y, l.push (len + 1) t)

/-- The k-th of eight. -/
def Eight.get {α : Type} (v : Eight α) (k : Fin 8) : α :=
  match k with
  | 0 => v.a0
  | 1 => v.a1
  | 2 => v.a2
  | 3 => v.a3
  | 4 => v.a4
  | 5 => v.a5
  | 6 => v.a6
  | 7 => v.a7

/-- Eight things made from their indices. -/
def Eight.make {α : Type} (f : Fin 8 → α) : Eight α :=
  ⟨f 0, f 1, f 2, f 3, f 4, f 5, f 6, f 7⟩

/-- Eight results computed in increasing index. -/
def eightDp {α : Type} (f : Fin 8 → Dp α) : Dp (Eight α) := do
  let x0 ← f 0
  let x1 ← f 1
  let x2 ← f 2
  let x3 ← f 3
  let x4 ← f 4
  let x5 ← f 5
  let x6 ← f 6
  let x7 ← f 7
  pure ⟨x0, x1, x2, x3, x4, x5, x6, x7⟩

end Sys2Proof.Machine
end

