-- ==== Sys2Proof/Machine/Flags.lean ====
section
/-! DEFINITION. Status bits and flag words (10_state.md R43 to R45, R47; 41_oscillator.md R186). The
block has no condition codes. -/

namespace Sys2Proof.Machine

/-- `unit[u].init`: the unit has completed an `INIT` since reset (R48, R406). -/
def unitInit (u : UnitId) (s : State) : Bool :=
  match u with
  | .bq => s.bq.init
  | .op => s.op.init
  | .lfo => s.lfo.init
  | .dly => s.dly.init
  | .trs => s.trs.init
  | .trq => s.trq.init
  | .trh => s.trh.init
  | .rvp => s.rvp.init
  | .rvh => s.rvh.init
  | .rvs => s.rvs.init

/-- `INIT_DONE[9:0]`: bit u mirrors unit u's `init` (R43, R48). -/
def initDone (s : State) : BitVec 10 :=
  BitVec.ofBool s.rvs.init ++ BitVec.ofBool s.rvh.init ++ BitVec.ofBool s.rvp.init ++
    BitVec.ofBool s.trh.init ++ BitVec.ofBool s.trq.init ++ BitVec.ofBool s.trs.init ++
    BitVec.ofBool s.dly.init ++ BitVec.ofBool s.lfo.init ++ BitVec.ofBool s.op.init ++
    BitVec.ofBool s.bq.init

/-- `STATUS`: reserved 31:26, `INIT_DONE` 25:16, reserved 15:1, `ERR` 0 (R43, R86). -/
def statusWord (s : State) : Word := 0#6 ++ initDone s ++ 0#15 ++ BitVec.ofBool s.err

/-- `ERRINFO`: `CAUSE` in bits 7:0, bits 31:8 zero (R44). -/
def errinfoWord (s : State) : Word := 0#24 ++ s.cause

/-- An oscillator's flag word, bit 0 EOC and bit 1 EORH (R186). -/
def flagWord (o : Osc) : Word := 0#30 ++ BitVec.ofBool o.eorh ++ BitVec.ofBool o.eoc

end Sys2Proof.Machine
end

