-- ==== Sys2Proof/Decode.lean ====
section
/-! DEFINITION. Decoding a command word (30_encoding.md R110 to R116), total on every 32-bit word,
rejecting by the error verdict's name, and the encoder. -/

namespace Sys2Proof

/-- `RSV`, bits 31:12 (R110). -/
def rsvField (w : Word) : BitVec 20 := w.extractLsb' 12 20

/-- `UNIT`, bits 11:8 (R110). -/
def unitField (w : Word) : BitVec 4 := w.extractLsb' 8 4

/-- `OP`, bits 7:0 (R110). -/
def opField (w : Word) : BitVec 8 := w.extractLsb' 0 8

/-- The unit of a `UNIT` code; 0xA to 0xF are reserved (R112). -/
def unitOfCode : Nat → Option UnitId
  | 0x0 => some .bq
  | 0x1 => some .op
  | 0x2 => some .lfo
  | 0x3 => some .dly
  | 0x4 => some .trs
  | 0x5 => some .trq
  | 0x6 => some .trh
  | 0x7 => some .rvp
  | 0x8 => some .rvh
  | 0x9 => some .rvs
  | _ => none

/-- The command of an `OP` code within a unit (R113, R114). -/
def commandOf (u : UnitId) (op : Nat) : Option Instr :=
  match u with
  | .bq =>
    match op with
    | 0x00 => some .bqInit
    | 0x01 => some .bqProcess
    | 0x02 => some .bqClear
    | 0x10 => some .bqSetPeaking
    | 0x11 => some .bqSetLowshelf
    | _ => none
  | .op =>
    match op with
    | 0x00 => some .opInit
    | 0x01 => some .opProcess
    | 0x02 => some .opClear
    | 0x10 => some .opSetLowpass
    | 0x11 => some .opSetHighpass
    | _ => none
  | .lfo =>
    match op with
    | 0x00 => some .lfoInit
    | 0x01 => some .lfoProcess
    | 0x02 => some .lfoClear
    | 0x10 => some .lfoSetFreq
    | 0x11 => some .lfoSetAmp
    | 0x12 => some .lfoSetWaveform
    | _ => none
  | .dly =>
    match op with
    | 0x00 => some .dlyInit
    | 0x01 => some .dlyProcess
    | 0x02 => some .dlyClear
    | 0x10 => some .dlySetDelayTime
    | 0x11 => some .dlySetFeedback
    | _ => none
  | .trs =>
    match op with
    | 0x00 => some .trsInit
    | 0x01 => some .trsProcess
    | 0x10 => some .trsSetSpeed
    | 0x11 => some .trsSetDepth
    | 0x20 => some .trsGetLastLfo
    | _ => none
  | .trq =>
    match op with
    | 0x00 => some .trqInit
    | 0x01 => some .trqProcess
    | 0x10 => some .trqSetSpeed
    | 0x11 => some .trqSetDepth
    | 0x20 => some .trqGetLastLfo
    | _ => none
  | .trh =>
    match op with
    | 0x00 => some .trhInit
    | 0x01 => some .trhProcess
    | 0x10 => some .trhSetSpeed
    | 0x11 => some .trhSetDepth
    | 0x20 => some .trhGetLastLfo
    | _ => none
  | .rvp =>
    match op with
    | 0x00 => some .rvpInit
    | 0x01 => some .rvpProcess
    | 0x02 => some .rvpClear
    | 0x10 => some .rvpSetMix
    | 0x11 => some .rvpSetDecay
    | 0x12 => some .rvpSetDiffusion
    | 0x13 => some .rvpSetPredelay
    | 0x14 => some .rvpSetInputHighcut
    | 0x15 => some .rvpSetTankHighcut
    | 0x16 => some .rvpSetTankModSpeed
    | 0x17 => some .rvpSetTankModDepth
    | 0x18 => some .rvpSetTankModShape
    | _ => none
  | .rvh =>
    match op with
    | 0x00 => some .rvhInit
    | 0x01 => some .rvhProcess
    | 0x02 => some .rvhClear
    | 0x10 => some .rvhSetMix
    | 0x11 => some .rvhSetDecay
    | 0x12 => some .rvhSetDiffusion
    | 0x13 => some .rvhSetPredelay
    | 0x14 => some .rvhSetInputHighcut
    | 0x15 => some .rvhSetTankHighcut
    | 0x16 => some .rvhSetTankModSpeed
    | 0x17 => some .rvhSetTankModDepth
    | 0x18 => some .rvhSetTankModShape
    | _ => none
  | .rvs =>
    match op with
    | 0x00 => some .rvsInit
    | 0x01 => some .rvsProcess
    | 0x02 => some .rvsClear
    | 0x10 => some .rvsSetMix
    | 0x11 => some .rvsSetDecay
    | 0x12 => some .rvsSetDiffusion
    | 0x13 => some .rvsSetPredelay
    | 0x14 => some .rvsSetInputHighcut
    | 0x15 => some .rvsSetTankHighcut
    | 0x16 => some .rvsSetTankModSpeed
    | 0x17 => some .rvsSetTankModDepth
    | 0x18 => some .rvsSetTankModShape
    | _ => none

/-- The verdict of the decoder on a command word (R115): the command, or the first check that fails,
in the order `RESERVED_BITS`, `BAD_UNIT`, `BAD_OP`. -/
def decode (w : Word) : Except Cause Instr :=
  if rsvField w ≠ 0#20 then .error .reservedBits
  else
    match unitOfCode (unitField w).toNat with
    | none => .error .badUnit
    | some u =>
      match commandOf u (opField w).toNat with
      | none => .error .badOp
      | some i => .ok i

/-- The `UNIT` code of a unit (R112). -/
def UnitId.code : UnitId → BitVec 4
  | .bq => 0x0#4
  | .op => 0x1#4
  | .lfo => 0x2#4
  | .dly => 0x3#4
  | .trs => 0x4#4
  | .trq => 0x5#4
  | .trh => 0x6#4
  | .rvp => 0x7#4
  | .rvh => 0x8#4
  | .rvs => 0x9#4

/-- The unit a command addresses (R114). -/
def Instr.unit : Instr → UnitId
  | .bqInit | .bqProcess | .bqClear | .bqSetPeaking | .bqSetLowshelf => .bq
  | .opInit | .opProcess | .opClear | .opSetLowpass | .opSetHighpass => .op
  | .lfoInit | .lfoProcess | .lfoClear | .lfoSetFreq | .lfoSetAmp | .lfoSetWaveform => .lfo
  | .dlyInit | .dlyProcess | .dlyClear | .dlySetDelayTime | .dlySetFeedback => .dly
  | .trsInit | .trsProcess | .trsSetSpeed | .trsSetDepth | .trsGetLastLfo => .trs
  | .trqInit | .trqProcess | .trqSetSpeed | .trqSetDepth | .trqGetLastLfo => .trq
  | .trhInit | .trhProcess | .trhSetSpeed | .trhSetDepth | .trhGetLastLfo => .trh
  | .rvpInit | .rvpProcess | .rvpClear | .rvpSetMix | .rvpSetDecay | .rvpSetDiffusion
  | .rvpSetPredelay | .rvpSetInputHighcut | .rvpSetTankHighcut | .rvpSetTankModSpeed
  | .rvpSetTankModDepth | .rvpSetTankModShape => .rvp
  | .rvhInit | .rvhProcess | .rvhClear | .rvhSetMix | .rvhSetDecay | .rvhSetDiffusion
  | .rvhSetPredelay | .rvhSetInputHighcut | .rvhSetTankHighcut | .rvhSetTankModSpeed
  | .rvhSetTankModDepth | .rvhSetTankModShape => .rvh
  | .rvsInit | .rvsProcess | .rvsClear | .rvsSetMix | .rvsSetDecay | .rvsSetDiffusion
  | .rvsSetPredelay | .rvsSetInputHighcut | .rvsSetTankHighcut | .rvsSetTankModSpeed
  | .rvsSetTankModDepth | .rvsSetTankModShape => .rvs

/-- The `OP` code of a command (R113). -/
def Instr.op : Instr → BitVec 8
  | .bqInit | .opInit | .lfoInit | .dlyInit | .trsInit | .trqInit | .trhInit | .rvpInit | .rvhInit
  | .rvsInit => 0x00#8
  | .bqProcess | .opProcess | .lfoProcess | .dlyProcess | .trsProcess | .trqProcess | .trhProcess
  | .rvpProcess | .rvhProcess | .rvsProcess => 0x01#8
  | .bqClear | .opClear | .lfoClear | .dlyClear | .rvpClear | .rvhClear | .rvsClear => 0x02#8
  | .bqSetPeaking | .opSetLowpass | .lfoSetFreq | .dlySetDelayTime | .trsSetSpeed | .trqSetSpeed
  | .trhSetSpeed | .rvpSetMix | .rvhSetMix | .rvsSetMix => 0x10#8
  | .bqSetLowshelf | .opSetHighpass | .lfoSetAmp | .dlySetFeedback | .trsSetDepth | .trqSetDepth
  | .trhSetDepth | .rvpSetDecay | .rvhSetDecay | .rvsSetDecay => 0x11#8
  | .lfoSetWaveform | .rvpSetDiffusion | .rvhSetDiffusion | .rvsSetDiffusion => 0x12#8
  | .rvpSetPredelay | .rvhSetPredelay | .rvsSetPredelay => 0x13#8
  | .rvpSetInputHighcut | .rvhSetInputHighcut | .rvsSetInputHighcut => 0x14#8
  | .rvpSetTankHighcut | .rvhSetTankHighcut | .rvsSetTankHighcut => 0x15#8
  | .rvpSetTankModSpeed | .rvhSetTankModSpeed | .rvsSetTankModSpeed => 0x16#8
  | .rvpSetTankModDepth | .rvhSetTankModDepth | .rvsSetTankModDepth => 0x17#8
  | .rvpSetTankModShape | .rvhSetTankModShape | .rvsSetTankModShape => 0x18#8
  | .trsGetLastLfo | .trqGetLastLfo | .trhGetLastLfo => 0x20#8

/-- The command word of a command: `RSV` = 0, `UNIT`, `OP`, from bit 31 down (R110). -/
def encode (i : Instr) : Word := 0#20 ++ i.unit.code ++ i.op

/-- The four bytes of a word on the bus, byte `o` holding bits `8·o+7 : 8·o` (R81). -/
def bytesOfWord (w : Word) : List Byte :=
  [w.extractLsb' 0 8, w.extractLsb' 8 8, w.extractLsb' 16 8, w.extractLsb' 24 8]

/-- The word whose bus bytes are these, the first at the lowest address (R81). -/
def wordOfBytes (b0 b1 b2 b3 : Byte) : Word := b3 ++ b2 ++ b1 ++ b0

/-- The decoder on the bytes of a `CMD` write: every command is exactly one word (R118), so any other
number of bytes is none. -/
def decodeBytes : List Byte → Option Instr
  | [b0, b1, b2, b3] => (decode (wordOfBytes b0 b1 b2 b3)).toOption
  | _ => none

/-- The instruction that the decoder reads from an opcode-table row's bits. -/
def decodeTableWord (nbits w : Nat) : Option Instr :=
  decodeBytes (bytesOfWord (BitVec.ofNat 32 (w % 2 ^ nbits)))

end Sys2Proof
end

