-- ==== Sys2Proof/Machine/Operands.lean ====
section
/-! DEFINITION. How a command reads its operands (30_encoding.md R111, R114, R117; 60_exceptions.md
R407): which ARG registers hold an f32, the finiteness check, and the enum operands. -/

namespace Sys2Proof.Machine

/-- How many f32 operands a command reads, `ARG0` first (R114). The remaining operands, of
`SET_WAVEFORM` and the three `SET_TANK_MOD_*`, are u32. -/
def f32Operands : Instr → Nat
  | .bqClear | .opClear | .lfoProcess | .lfoClear | .lfoSetWaveform | .dlyClear | .trsGetLastLfo
  | .trqGetLastLfo | .trhGetLastLfo | .rvpClear | .rvpSetTankModSpeed | .rvpSetTankModDepth
  | .rvpSetTankModShape | .rvhClear | .rvhSetTankModSpeed | .rvhSetTankModDepth
  | .rvhSetTankModShape | .rvsClear | .rvsSetTankModSpeed | .rvsSetTankModDepth
  | .rvsSetTankModShape => 0
  | .bqInit | .bqProcess | .opInit | .opProcess | .opSetLowpass | .opSetHighpass | .lfoInit
  | .lfoSetFreq | .lfoSetAmp | .dlyInit | .dlySetDelayTime | .dlySetFeedback | .trsInit
  | .trsSetSpeed | .trsSetDepth | .trqInit | .trqSetSpeed | .trqSetDepth | .trhInit
  | .trhSetSpeed | .trhSetDepth | .rvpInit | .rvpSetMix | .rvpSetDecay | .rvpSetDiffusion
  | .rvpSetPredelay | .rvpSetInputHighcut | .rvpSetTankHighcut | .rvhInit | .rvhSetMix
  | .rvhSetDecay | .rvhSetDiffusion | .rvhSetPredelay | .rvhSetInputHighcut
  | .rvhSetTankHighcut | .rvsInit | .rvsSetMix | .rvsSetDecay | .rvsSetDiffusion
  | .rvsSetPredelay | .rvsSetInputHighcut | .rvsSetTankHighcut => 1
  | .dlyProcess | .trsProcess | .trqProcess | .trhProcess | .rvpProcess | .rvhProcess
  | .rvsProcess => 2
  | .bqSetPeaking | .bqSetLowshelf => 3

/-- Every f32 operand the command reads is finite (R403, R407(a)); registers it does not read, and u32
operands, are not checked. -/
def operandsFinite (i : Instr) (s : State) : Bool :=
  match f32Operands i with
  | 0 => true
  | 1 => F32.isFinite s.arg0
  | 2 => F32.isFinite s.arg0 && F32.isFinite s.arg1
  | _ => F32.isFinite s.arg0 && F32.isFinite s.arg1 && F32.isFinite s.arg2

/-- The f32 operand in `ARG0`; a subnormal operand reads as zero under `FTZ` (R17, R111). -/
def State.f0 (s : State) : F32 := Config.cfg.flush s.arg0

/-- The f32 operand in `ARG1` (R17, R111). -/
def State.f1 (s : State) : F32 := Config.cfg.flush s.arg1

/-- The f32 operand in `ARG2` (R17, R111). -/
def State.f2 (s : State) : F32 := Config.cfg.flush s.arg2

/-- `POSMAP(pos)`: positions 0, 1, 2 as they are, any other value 1 (R273). -/
def posMap : Nat → Fin 3
  | 0 => 0
  | 2 => 2
  | _ => 1

/-- The waveform of a `SET_WAVEFORM` operand: 1 is RSQUARE, every other value SINE (R195). -/
def waveOf (w : Word) : Wave := if w = 1#32 then .rsquare else .sine

end Sys2Proof.Machine
end

