-- ==== Sys2Proof/Machine/Ops.lean ====
section
/-! DEFINITION. The operations every command shares: raising an error (60_exceptions.md R402; the block
takes no exception and returns from none, R400, R413), the checks before a command's rule (R403),
and running the rule on the datapath. -/

namespace Sys2Proof.Machine

/-- The code of a cause (R401). -/
def Cause.code : Cause → BitVec 8
  | .reservedBits => 0x01#8
  | .badUnit => 0x02#8
  | .badOp => 0x03#8
  | .notInit => 0x04#8
  | .badOperand => 0x05#8
  | .badRegister => 0x06#8

/-- `raise Error(code, info)`: the first error since reset records its cause and detail, `ERR` becomes
1, and nothing else changes (R402, R412). -/
def State.raise (s : State) (code : Cause) (info : Word) : State :=
  if s.err then s else { s with err := true, cause := Cause.code code, errcmd := info }

/-- A command abandoned with an error: its word is the detail (R45, R402). -/
def abandon (code : Cause) (i : Instr) (s : State) : Host.Outcome State Fault Refusal :=
  .next (s.raise code (encode i))

/-- The checks on a decoded command, in the order of R403 and R408 — `NOT_INIT` for every op but
`INIT`, then `BAD_OPERAND` — and then its rule. -/
def checked (i : Instr) (s : State) (rule : Host.Outcome State Fault Refusal) :
    Host.Outcome State Fault Refusal :=
  if i.op ≠ 0x00#8 ∧ unitInit i.unit s = false then abandon .notInit i s
  else if operandsFinite i s = false then abandon .badOperand i s
  else rule

/-- Run a rule on the datapath and keep the count of NaNs it drew. -/
def perform (s : State) (p : Dp State) : Host.Outcome State Fault Refusal :=
  .next { (p s.draws).1 with draws := (p s.draws).2 }

/-- As `perform`, for a rule that ends in `none` where it would read outside a delay line; then
nothing happens (R90, 93 part 1: `refuse`). -/
def performLine (s : State) (p : Dp (Option State)) : Host.Outcome State Fault Refusal :=
  match (p s.draws).1 with
  | some t => .next { t with draws := (p s.draws).2 }
  | none => .refused .lineRange

/-- An `INIT`: fs, the operand, must be greater than zero, or the command is abandoned with the unit
as it was (R406, R407(b)). -/
def initialise (i : Instr) (s : State) (p : F32 → Dp State) : Host.Outcome State Fault Refusal :=
  if Config.cfg.lt F32.zero s.f0 then perform s (p s.f0) else abandon .badOperand i s

/-- Write the two result registers (R111). -/
def State.respond (s : State) (r0 r1 : Word) : State := { s with res0 := r0, res1 := r1 }

end Sys2Proof.Machine
end

