-- ==== Sys2Proof/Machine/Delay.lean ====
section
/-! DEFINITION. Unit DLY (42_delay.md). -/

namespace Sys2Proof.Machine

/-- The length of both lines, `N = MAX_DELAY_SAMPLES + 2` (R52, R201). -/
def dlyLen (c : Cfg) : Nat := c.maxDelaySamples + 2

/-- The state after `DLY.INIT` at rate fs (R200). -/
def dlyInitial (c : Cfg) (fs : F32) : Dp DlyUnit := do
  let dmax := F32.ofNat c.maxDelaySamples
  let m ← c.mul c.delayTimeMinSeconds fs
  let dlo ← c.clamp m F32.one dmax
  let dt ← c.clamp c.defDlyTime dlo dmax
  let fb ← c.clampUnit c.defDlyFeedback
  pure
    { init := true, fs := fs, lineL := Line.zero, lineR := Line.zero, dt := dt, dc := dt, fb := fb,
      dmax := dmax, dlo := dlo }

/-- The smoothing step and the read delay: the new `dc` and `D` (R202). -/
def dlyDelay (c : Cfg) (u : DlyUnit) : Dp (F32 × F32) := do
  let d ← c.sub u.dt u.dc
  let p ← c.mul c.dlySmooth d
  let dc ← c.add u.dc p
  let D ← c.clamp dc F32.one u.dmax
  pure (dc, D)

/-- One sample of the delay: the unit after it and the wet pair; `none` where `D` lies outside what
R91 can read (R202). -/
def dlyStep (c : Cfg) (u : DlyUnit) (inL inR : F32) : Dp (Option (DlyUnit × F32 × F32)) := do
  let (dc, D) ← dlyDelay c u
  if lineReadable (dlyLen c) D then do
    let rL ← lineRead c (dlyLen c) u.lineL D
    let rR ← lineRead c (dlyLen c) u.lineR D
    let q ← c.mul u.fb rL
    let vL ← c.add inL q
    let q ← c.mul u.fb rR
    let vR ← c.add inR q
    pure (some
      ({ u with
          dc := dc, lineL := u.lineL.push (dlyLen c) vL, lineR := u.lineR.push (dlyLen c) vR },
        rL, rR))
  else pure none

/-- `DLY.INIT` (R200). -/
def execDlyInit (s : State) : Host.Outcome State Fault Refusal :=
  checked .dlyInit s <| initialise .dlyInit s fun fs => do
    let u ← dlyInitial Config.cfg fs
    pure { s with dly := u }

/-- `DLY.PROCESS` (R202). -/
def execDlyProcess (s : State) : Host.Outcome State Fault Refusal :=
  checked .dlyProcess s <| performLine s do
    let r ← dlyStep Config.cfg s.dly s.f0 s.f1
    pure (r.map fun (u, l, r) => ({ s with dly := u } : State).respond l r)

/-- `DLY.CLEAR` (R203). -/
def execDlyClear (s : State) : Host.Outcome State Fault Refusal :=
  checked .dlyClear s <| perform s <| pure
    { s with dly := { s.dly with lineL := Line.zero, lineR := Line.zero } }

/-- `DLY.SET_DELAY_TIME` (R204): the target; `dc` follows it in R202. -/
def execDlySetDelayTime (s : State) : Host.Outcome State Fault Refusal :=
  checked .dlySetDelayTime s <| perform s do
    let dt ← Config.cfg.clamp s.f0 s.dly.dlo s.dly.dmax
    pure { s with dly := { s.dly with dt := dt } }

/-- `DLY.SET_FEEDBACK` (R205). -/
def execDlySetFeedback (s : State) : Host.Outcome State Fault Refusal :=
  checked .dlySetFeedback s <| perform s do
    let fb ← Config.cfg.clampUnit s.f0
    pure { s with dly := { s.dly with fb := fb } }

end Sys2Proof.Machine
end

