-- ==== Sys2Proof/Machine/Filters.lean ====
section
/-! DEFINITION. The filter primitives and the commands of units BQ and OP (40_filters.md). -/

namespace Sys2Proof.Machine

/-- `OPCOEF(fc, fs)` (R140). -/
def opCoef (c : Cfg) (fc fs : F32) : Dp F32 := do
  let t ← c.mul F32.twoPi fc
  let t ← c.div t fs
  let e := c.exp (F32.neg t)
  c.sub F32.one e

/-- `LP1(s, a, x)` on the state `s.y` = `y`: the output, which is also the new state (R141). -/
def lp1 (c : Cfg) (y a x : F32) : Dp F32 := do
  let d ← c.sub x y
  let p ← c.mul a d
  c.add y p

/-- `HP1(s, a, x)`: the output and the new low-pass state (R142). -/
def hp1 (c : Cfg) (y a x : F32) : Dp (F32 × F32) := do
  let y' ← lp1 c y a x
  let out ← c.sub x y'
  pure (out, y')

/-- `BQ2(c, h, x)`: the output and the new history (R143). -/
def bq2 (c : Cfg) (k : BqCoef) (h : BqHist) (x : F32) : Dp (F32 × BqHist) := do
  let acc ← c.mul k.b0 x
  let q ← c.mul k.b1 h.x1
  let acc ← c.add acc q
  let q ← c.mul k.b2 h.x2
  let acc ← c.add acc q
  let q ← c.mul k.a1 h.y1
  let acc ← c.sub acc q
  let q ← c.mul k.a2 h.y2
  let acc ← c.sub acc q
  pure (acc, { x1 := x, x2 := h.x1, y1 := acc, y2 := h.y1 })

/-- `BQPRE(fc, Q, gdb, fs)`: A, cw, sw, alpha (R144). -/
def bqPre (c : Cfg) (fc q gdb fs : F32) : Dp (F32 × F32 × F32 × F32) := do
  let e ← c.div gdb F32.forty
  let a := c.pow10 e
  let w0 ← c.mul F32.twoPi fc
  let w0 ← c.div w0 fs
  let cw := c.cos w0
  let sw := c.sin w0
  let q2 ← c.mul F32.two q
  let alpha ← c.div sw q2
  pure (a, cw, sw, alpha)

/-- `NORM(B0, B1, B2, A0, A1, A2)` (R147). -/
def bqNorm (c : Cfg) (b0 b1 b2 a0 a1 a2 : F32) : Dp BqCoef := do
  let n0 ← c.div b0 a0
  let n1 ← c.div b1 a0
  let n2 ← c.div b2 a0
  let m1 ← c.div a1 a0
  let m2 ← c.div a2 a0
  pure { b0 := n0, b1 := n1, b2 := n2, a1 := m1, a2 := m2 }

/-- `PEAKDESIGN(fc, Q, gdb, fs)` (R145). -/
def peakDesign (c : Cfg) (fc q gdb fs : F32) : Dp BqCoef := do
  let (a, cw, _, alpha) ← bqPre c fc q gdb fs
  let t ← c.mul alpha a
  let b0 ← c.add F32.one t
  let b1 ← c.mul F32.negTwo cw
  let t ← c.mul alpha a
  let b2 ← c.sub F32.one t
  let t ← c.div alpha a
  let a0 ← c.add F32.one t
  let a1 ← c.mul F32.negTwo cw
  let t ← c.div alpha a
  let a2 ← c.sub F32.one t
  bqNorm c b0 b1 b2 a0 a1 a2

/-- `SHELFDESIGN(fc, Q, gdb, fs)` (R146): each parenthesis innermost first, products before sums. -/
def shelfDesign (c : Cfg) (fc q gdb fs : F32) : Dp BqCoef := do
  let (a, cw, _, alpha) ← bqPre c fc q gdb fs
  let sa ← c.sqrt a
  let beta ← c.mul F32.two sa
  let beta ← c.mul beta alpha
  let ap1 ← c.add a F32.one
  let am1 ← c.sub a F32.one
  let t ← c.mul am1 cw
  let t ← c.sub ap1 t
  let t ← c.add t beta
  let b0 ← c.mul a t
  let u ← c.mul F32.two a
  let t ← c.mul ap1 cw
  let t ← c.sub am1 t
  let b1 ← c.mul u t
  let t ← c.mul am1 cw
  let t ← c.sub ap1 t
  let t ← c.sub t beta
  let b2 ← c.mul a t
  let t ← c.mul am1 cw
  let t ← c.add ap1 t
  let a0 ← c.add t beta
  let t ← c.mul ap1 cw
  let t ← c.add am1 t
  let a1 ← c.mul F32.negTwo t
  let t ← c.mul am1 cw
  let t ← c.add ap1 t
  let a2 ← c.sub t beta
  bqNorm c b0 b1 b2 a0 a1 a2

/-- The design clamps: fc', Q', gdb' (R148). -/
def bqClamps (c : Cfg) (fc q gdb fs : F32) : Dp (F32 × F32 × F32) := do
  let hi ← c.mul c.bqFcMaxFrac fs
  let fc' ← c.clamp fc c.bqFcMin hi
  let q' ← c.clamp q c.bqQMin c.bqQMax
  let gdb' ← c.clamp gdb c.bqGainMinDb c.bqGainMaxDb
  pure (fc', q', gdb')

/-- A peaking design through the clamps (R148, R153, R249). -/
def peakClamped (c : Cfg) (fc q gdb fs : F32) : Dp BqCoef := do
  let (fc', q', gdb') ← bqClamps c fc q gdb fs
  peakDesign c fc' q' gdb' fs

/-- A low-shelf design through the clamps (R148, R154, R249). -/
def shelfClamped (c : Cfg) (fc q gdb fs : F32) : Dp BqCoef := do
  let (fc', q', gdb') ← bqClamps c fc q gdb fs
  shelfDesign c fc' q' gdb' fs

/-- A one-pole coefficient through the cutoff clamp (R163, R164, R249). -/
def opCoefClamped (c : Cfg) (fc fs : F32) : Dp F32 := do
  let hi ← c.mul c.opFcMaxFrac fs
  let fc' ← c.clamp fc c.opFcMin hi
  opCoef c fc' fs

/-- The identity section (R49, R150). -/
def BqCoef.identity : BqCoef :=
  { b0 := F32.one, b1 := F32.zero, b2 := F32.zero, a1 := F32.zero, a2 := F32.zero }

/-- Unit OP's filter on one sample: the output and the new state `s.y` (R161). -/
def opStep (c : Cfg) (u : OpUnit) (x : F32) : Dp (F32 × F32) :=
  match u.mode with
  | .lp => do
    let y ← lp1 c u.y u.a x
    pure (y, y)
  | .hp => hp1 c u.y u.a x

/-- `BQ.INIT` (R150). -/
def execBqInit (s : State) : Host.Outcome State Fault Refusal :=
  checked .bqInit s <| initialise .bqInit s fun fs =>
    pure { s with bq := { init := true, fs := fs, c := BqCoef.identity, h := BqHist.zero } }

/-- `BQ.PROCESS` (R151). -/
def execBqProcess (s : State) : Host.Outcome State Fault Refusal :=
  checked .bqProcess s <| perform s do
    let (y, h) ← bq2 Config.cfg s.bq.c s.bq.h s.f0
    pure (({ s with bq := { s.bq with h := h } } : State).respond y 0#32)

/-- `BQ.CLEAR` (R152). -/
def execBqClear (s : State) : Host.Outcome State Fault Refusal :=
  checked .bqClear s <| perform s <| pure { s with bq := { s.bq with h := BqHist.zero } }

/-- `BQ.SET_PEAKING` (R153). -/
def execBqSetPeaking (s : State) : Host.Outcome State Fault Refusal :=
  checked .bqSetPeaking s <| perform s do
    let k ← peakClamped Config.cfg s.f0 s.f1 s.f2 s.bq.fs
    pure { s with bq := { s.bq with c := k } }

/-- `BQ.SET_LOWSHELF` (R154). -/
def execBqSetLowshelf (s : State) : Host.Outcome State Fault Refusal :=
  checked .bqSetLowshelf s <| perform s do
    let k ← shelfClamped Config.cfg s.f0 s.f1 s.f2 s.bq.fs
    pure { s with bq := { s.bq with c := k } }

/-- `OP.INIT` (R160). -/
def execOpInit (s : State) : Host.Outcome State Fault Refusal :=
  checked .opInit s <| initialise .opInit s fun fs =>
    pure { s with op := { init := true, fs := fs, mode := .lp, a := F32.one, y := F32.zero } }

/-- `OP.PROCESS` (R161). -/
def execOpProcess (s : State) : Host.Outcome State Fault Refusal :=
  checked .opProcess s <| perform s do
    let (out, y) ← opStep Config.cfg s.op s.f0
    pure (({ s with op := { s.op with y := y } } : State).respond out 0#32)

/-- `OP.CLEAR` (R162). -/
def execOpClear (s : State) : Host.Outcome State Fault Refusal :=
  checked .opClear s <| perform s <| pure { s with op := { s.op with y := F32.zero } }

/-- `OP.SET_LOWPASS` (R163). -/
def execOpSetLowpass (s : State) : Host.Outcome State Fault Refusal :=
  checked .opSetLowpass s <| perform s do
    let a ← opCoefClamped Config.cfg s.f0 s.op.fs
    pure { s with op := { s.op with mode := .lp, a := a } }

/-- `OP.SET_HIGHPASS` (R164). -/
def execOpSetHighpass (s : State) : Host.Outcome State Fault Refusal :=
  checked .opSetHighpass s <| perform s do
    let a ← opCoefClamped Config.cfg s.f0 s.op.fs
    pure { s with op := { s.op with mode := .hp, a := a } }

end Sys2Proof.Machine
end

