-- ==== Sys2Proof/Machine/Oscillator.lean ====
section
/-! DEFINITION. The oscillator function and the commands of unit LFO (41_oscillator.md). -/

namespace Sys2Proof.Machine

/-- `SHAPE(wave, φ)` (R181 sine, R182 rounded square, R183 triangle). DESIGN CHOICE (log entry 19): under
`FTZ` the operand of a configuration function is handed over as it stands, so a subnormal `RSQ_K`
reaches `ATAN` unflushed; R17 and R20 do not say whether it counts as an operand. -/
def shape (c : Cfg) (w : Wave) (φ : F32) : Dp F32 :=
  match w with
  | .sine => do
    let x ← c.mul F32.twoPi φ
    pure (c.sin x)
  | .rsquare => do
    let x ← c.mul F32.twoPi φ
    let y ← c.mul c.rsqK (c.sin x)
    c.div (c.atan y) (c.atan c.rsqK)
  | .triangle => do
    let d ← c.sub φ F32.half
    let t ← c.mul F32.four (F32.abs d)
    c.sub F32.one t

/-- `ADVANCE(o)`: the phase and both flags, which every step overwrites (R184). -/
def advance (c : Cfg) (o : Osc) : Dp Osc := do
  let t ← c.add o.phase o.inc
  let h := c.lt o.phase F32.half && c.le F32.half t
  if c.le F32.one t then do
    let p ← c.sub t F32.one
    pure { o with phase := p, eoc := true, eorh := h }
  else pure { o with phase := t, eoc := false, eorh := h }

/-- `OSC(o)`: the output, from the phase before the advance, and the oscillator after it (R180). -/
def oscStep (c : Cfg) (o : Osc) : Dp (F32 × Osc) := do
  let s ← shape c o.wave o.phase
  let out ← c.mul o.amp s
  let o' ← advance c o
  pure (out, o')

/-- `SETFREQ(o, hz, fs)` (R185). -/
def setFreq (c : Cfg) (o : Osc) (hz fs : F32) : Dp Osc := do
  let hi ← c.mul fs F32.half
  let f ← c.clamp hz F32.zero hi
  let inc ← c.div f fs
  pure { o with freq := f, inc := inc }

/-- Unit LFO's oscillator after `INIT` (R51, R190). -/
def Osc.initial : Osc :=
  { phase := F32.zero, freq := F32.zero, inc := F32.zero, amp := F32.one, wave := .sine,
    eoc := false, eorh := false }

/-- `LFO.INIT` (R190). -/
def execLfoInit (s : State) : Host.Outcome State Fault Refusal :=
  checked .lfoInit s <| initialise .lfoInit s fun fs =>
    pure { s with lfo := { init := true, fs := fs, o := Osc.initial } }

/-- `LFO.PROCESS` (R191). -/
def execLfoProcess (s : State) : Host.Outcome State Fault Refusal :=
  checked .lfoProcess s <| perform s do
    let (out, o) ← oscStep Config.cfg s.lfo.o
    pure (({ s with lfo := { s.lfo with o := o } } : State).respond out (flagWord o))

/-- `LFO.CLEAR` (R192). -/
def execLfoClear (s : State) : Host.Outcome State Fault Refusal :=
  checked .lfoClear s <| perform s <| pure
    { s with
      lfo := { s.lfo with o := { s.lfo.o with phase := F32.zero, eoc := false, eorh := false } } }

/-- `LFO.SET_FREQ` (R193). -/
def execLfoSetFreq (s : State) : Host.Outcome State Fault Refusal :=
  checked .lfoSetFreq s <| perform s do
    let o ← setFreq Config.cfg s.lfo.o s.f0 s.lfo.fs
    pure { s with lfo := { s.lfo with o := o } }

/-- `LFO.SET_AMP` (R194). -/
def execLfoSetAmp (s : State) : Host.Outcome State Fault Refusal :=
  checked .lfoSetAmp s <| perform s do
    let a ← Config.cfg.clampUnit s.f0
    pure { s with lfo := { s.lfo with o := { s.lfo.o with amp := a } } }

/-- `LFO.SET_WAVEFORM` (R195): a u32 operand, not checked for finiteness. -/
def execLfoSetWaveform (s : State) : Host.Outcome State Fault Refusal :=
  checked .lfoSetWaveform s <| perform s <| pure
    { s with lfo := { s.lfo with o := { s.lfo.o with wave := waveOf s.arg0 } } }

end Sys2Proof.Machine
end

