-- ==== Sys2Proof/Machine/Reverb.lean ====
section
/-! DEFINITION. What the three reverbs share (44_reverb.md R270 to R277). -/

namespace Sys2Proof.Machine

/-- The nine parameters an `INIT` loads, each default through its setter's clamp (R9, R290). -/
def rvDefaults (c : Cfg) : Dp RvParams := do
  let mix ← c.clampUnit c.defRvMix
  let decay ← c.clampUnit c.defRvDecay
  let diffusion ← c.clampUnit c.defRvDiffusion
  let predelay ← c.clampUnit c.defRvPredelay
  let inhc ← c.clampUnit c.defRvInputHc
  let tankhc ← c.clampUnit c.defRvTankHc
  pure
    { mix := mix, decay := decay, diffusion := diffusion, predelay := predelay, inhc := inhc,
      tankhc := tankhc, spos := posMap c.defRvModSpeedPos, dpos := posMap c.defRvModDepthPos,
      shpos := posMap c.defRvModShapePos }

/-- The mix law on one channel: `(1 − mix)·in + mix·wet` (R274). -/
def mixLaw (c : Cfg) (mix inp wet : F32) : Dp F32 := do
  let d ← c.sub F32.one mix
  let p ← c.mul d inp
  let q ← c.mul mix wet
  c.add p q

/-- The mono input of the Hall and the Spring, `(inL + inR)·HALF` (R275). -/
def monoInput (c : Cfg) (inL inR : F32) : Dp F32 := do
  let t ← c.add inL inR
  c.mul t F32.half

end Sys2Proof.Machine
end

