-- ==== Sys2Proof/Machine/Hall.lean ====
section
/-! DEFINITION. Unit RVH, the eight-line feedback delay network (45_reverb_hall.md). -/

namespace Sys2Proof.Machine

/-- The length of line k, `RVH_LEN[k] + RVH_MOD_MAX + 2` (R57, R311). -/
def hallLen (c : Cfg) (k : Fin 8) : Nat := c.rvhLen k + c.rvhModMax + 2

/-- `PD`, the integer pre-delay of a normalised position (R312). -/
def hallPd (c : Cfg) (predelay : F32) : Dp Nat := do
  let q ← c.mul predelay (F32.ofNat c.rvhPredelayMax)
  pure (F32.roundEvenNat q)

/-- `D_k`, the modulated delay time of line k (R314). -/
def hallDelay (c : Cfg) (dpos : Fin 3) (tri : F32) (k : Fin 8) : Dp F32 :=
  if c.rvhModMask.getLsbD k.val then do
    let e ← c.mul (c.rvhDepthTable dpos) tri
    c.add (F32.ofNat (c.rvhLen k)) e
  else pure (F32.ofNat (c.rvhLen k))

/-- One butterfly of the fast Walsh–Hadamard transform (R317). -/
def butterfly (c : Cfg) (a b : F32) : Dp (F32 × F32) := do
  let s ← c.add a b
  let d ← c.sub a b
  pure (s, d)

/-- `HAD8`: butterflies at distance 1, 2, 4, in increasing index, then the scaling by 1/√8 (R317). -/
def had8 (c : Cfg) (v : Eight F32) : Dp (Eight F32) := do
  let (v0, v1) ← butterfly c v.a0 v.a1
  let (v2, v3) ← butterfly c v.a2 v.a3
  let (v4, v5) ← butterfly c v.a4 v.a5
  let (v6, v7) ← butterfly c v.a6 v.a7
  let (w0, w2) ← butterfly c v0 v2
  let (w1, w3) ← butterfly c v1 v3
  let (w4, w6) ← butterfly c v4 v6
  let (w5, w7) ← butterfly c v5 v7
  let (x0, x4) ← butterfly c w0 w4
  let (x1, x5) ← butterfly c w1 w5
  let (x2, x6) ← butterfly c w2 w6
  let (x3, x7) ← butterfly c w3 w7
  let x : Eight F32 := ⟨x0, x1, x2, x3, x4, x5, x6, x7⟩
  eightDp fun k => c.mul (x.get k) F32.invSqrt8

/-- The output tap of one channel: `((p − q) + r) − s`, scaled (R319). -/
def hallTap (c : Cfg) (p q r s : F32) : Dp F32 := do
  let t ← c.sub p q
  let t ← c.add t r
  let t ← c.sub t s
  c.mul t c.rvhOutGain

/-- The pre-delay's output on mono input `x` (R312): a wire when `PD` is 0. -/
def hallPredelay (c : Cfg) (u : RvhUnit) (x : F32) : F32 :=
  if u.pd = 0 then x else u.pre.hist (c.rvhPredelayMax + 1) u.pd

/-- Every read of the step lies inside its line (R90, R91). -/
def hallReadable (c : Cfg) (pd : Nat) (ds : Eight F32) : Bool :=
  decide (pd ≤ c.rvhPredelayMax) &&
    (List.finRange 8).all fun k => lineReadable (hallLen c k) (ds.get k)

/-- The state after `RVH.INIT` at rate fs (R330). -/
def rvhInitial (c : Cfg) (fs : F32) : Dp RvhUnit := do
  let p ← rvDefaults c
  let pd ← hallPd c p.predelay
  let o ← setFreq c { Osc.initial with wave := .triangle } (c.rvhSpeedTable p.spos) fs
  pure
    { init := true, fs := fs, p := p, pre := Line.zero, pd := pd, ap0 := Line.zero,
      ap1 := Line.zero, ln := Eight.all Line.zero, z := Eight.all F32.zero,
      g := c.rvhDecayMap p.decay, ad := c.rvhHcMap p.tankhc, o := o }

/-- The oscillator step and the eight delay times: the oscillator after it and `D_0..D_7` (R313,
R314). -/
def hallDelays (c : Cfg) (u : RvhUnit) : Dp (Osc × Eight F32) := do
  let (tri, o) ← oscStep c u.o
  let ds ← eightDp (hallDelay c u.p.dpos tri)
  pure (o, ds)

/-- The network after its delay times are known: reads, damping, Hadamard mix, feedback writes and
taps, with diffused input `v` (R316 to R319): lines, damping states, wet pair. -/
def hallNetwork (c : Cfg) (u : RvhUnit) (ds : Eight F32) (v : F32) :
    Dp (Eight Line × Eight F32 × F32 × F32) := do
  let yf ← eightDp fun k => do
    let y ← lineRead c (hallLen c k) (u.ln.get k) (ds.get k)
    let f ← lp1 c (u.z.get k) u.ad y
    pure (y, f)
  let f := Eight.make fun k => (yf.get k).2
  let m ← had8 c f
  let ln ← eightDp fun k => do
    let r ← c.mul u.g (m.get k)
    let x ← c.add v r
    pure ((u.ln.get k).push (hallLen c k) x)
  let wetL ← hallTap c (yf.get 0).1 (yf.get 2).1 (yf.get 4).1 (yf.get 6).1
  let wetR ← hallTap c (yf.get 1).1 (yf.get 3).1 (yf.get 5).1 (yf.get 7).1
  pure (ln, f, wetL, wetR)

/-- One sample of the Hall, in the order of R310; `none` where a read would lie outside its line
(R331). -/
def rvhStep (c : Cfg) (u : RvhUnit) (inL inR : F32) : Dp (Option (RvhUnit × F32 × F32)) := do
  let x ← monoInput c inL inR
  let (a, ap0) ← allpass c (c.rvhApLen 0) u.ap0 (c.rvhApCoef 0) (hallPredelay c u x)
  let (v, ap1) ← allpass c (c.rvhApLen 1) u.ap1 (c.rvhApCoef 1) a
  let (o, ds) ← hallDelays c u
  if hallReadable c u.pd ds then do
    let (ln, z, wetL, wetR) ← hallNetwork c u ds v
    let outL ← mixLaw c u.p.mix inL wetL
    let outR ← mixLaw c u.p.mix inR wetR
    pure (some
      ({ u with
          pre := u.pre.push (c.rvhPredelayMax + 1) x, ap0 := ap0, ap1 := ap1, ln := ln, z := z,
          o := o },
        outL, outR))
  else pure none

/-- `RVH.INIT` (R330). -/
def execRvhInit (s : State) : Host.Outcome State Fault Refusal :=
  checked .rvhInit s <| initialise .rvhInit s fun fs => do
    let u ← rvhInitial Config.cfg fs
    pure { s with rvh := u }

/-- `RVH.PROCESS` (R331). -/
def execRvhProcess (s : State) : Host.Outcome State Fault Refusal :=
  checked .rvhProcess s <| performLine s do
    let r ← rvhStep Config.cfg s.rvh s.f0 s.f1
    pure (r.map fun (u, l, r) => ({ s with rvh := u } : State).respond l r)

/-- `RVH.CLEAR` (R276, R332): parameters, `g`, `ad`, `PD` and the oscillator are kept. -/
def execRvhClear (s : State) : Host.Outcome State Fault Refusal :=
  checked .rvhClear s <| perform s <| pure
    { s with
      rvh := { s.rvh with
        pre := Line.zero, ap0 := Line.zero, ap1 := Line.zero, ln := Eight.all Line.zero,
        z := Eight.all F32.zero } }

/-- `RVH.SET_MIX` (R333). -/
def execRvhSetMix (s : State) : Host.Outcome State Fault Refusal :=
  checked .rvhSetMix s <| perform s do
    let v ← Config.cfg.clampUnit s.f0
    pure { s with rvh := { s.rvh with p := { s.rvh.p with mix := v } } }

/-- `RVH.SET_DECAY` (R334). -/
def execRvhSetDecay (s : State) : Host.Outcome State Fault Refusal :=
  checked .rvhSetDecay s <| perform s do
    let v ← Config.cfg.clampUnit s.f0
    pure
      { s with
        rvh := { s.rvh with p := { s.rvh.p with decay := v }, g := Config.cfg.rvhDecayMap v } }

/-- `RVH.SET_DIFFUSION` (R335): an ignored setter, which stores its clamped value (R271, R277). -/
def execRvhSetDiffusion (s : State) : Host.Outcome State Fault Refusal :=
  checked .rvhSetDiffusion s <| perform s do
    let v ← Config.cfg.clampUnit s.f0
    pure { s with rvh := { s.rvh with p := { s.rvh.p with diffusion := v } } }

/-- `RVH.SET_PREDELAY` (R312, R336). -/
def execRvhSetPredelay (s : State) : Host.Outcome State Fault Refusal :=
  checked .rvhSetPredelay s <| perform s do
    let v ← Config.cfg.clampUnit s.f0
    let pd ← hallPd Config.cfg v
    pure { s with rvh := { s.rvh with p := { s.rvh.p with predelay := v }, pd := pd } }

/-- `RVH.SET_INPUT_HIGHCUT` (R337): an ignored setter, which stores its clamped value (R271, R277). -/
def execRvhSetInputHighcut (s : State) : Host.Outcome State Fault Refusal :=
  checked .rvhSetInputHighcut s <| perform s do
    let v ← Config.cfg.clampUnit s.f0
    pure { s with rvh := { s.rvh with p := { s.rvh.p with inhc := v } } }

/-- `RVH.SET_TANK_HIGHCUT` (R338). -/
def execRvhSetTankHighcut (s : State) : Host.Outcome State Fault Refusal :=
  checked .rvhSetTankHighcut s <| perform s do
    let v ← Config.cfg.clampUnit s.f0
    pure
      { s with
        rvh := { s.rvh with p := { s.rvh.p with tankhc := v }, ad := Config.cfg.rvhHcMap v } }

/-- `RVH.SET_TANK_MOD_SPEED` (R339): the phase is kept. -/
def execRvhSetTankModSpeed (s : State) : Host.Outcome State Fault Refusal :=
  checked .rvhSetTankModSpeed s <| perform s do
    let pos := posMap s.arg0.toNat
    let o ← setFreq Config.cfg s.rvh.o (Config.cfg.rvhSpeedTable pos) s.rvh.fs
    pure { s with rvh := { s.rvh with p := { s.rvh.p with spos := pos }, o := o } }

/-- `RVH.SET_TANK_MOD_DEPTH` (R340): the next `PROCESS` reads the table at it. -/
def execRvhSetTankModDepth (s : State) : Host.Outcome State Fault Refusal :=
  checked .rvhSetTankModDepth s <| perform s <| pure
    { s with rvh := { s.rvh with p := { s.rvh.p with dpos := posMap s.arg0.toNat } } }

/-- `RVH.SET_TANK_MOD_SHAPE` (R341): an ignored setter with a u32 operand (R271, R277). -/
def execRvhSetTankModShape (s : State) : Host.Outcome State Fault Refusal :=
  checked .rvhSetTankModShape s <| perform s <| pure
    { s with rvh := { s.rvh with p := { s.rvh.p with shpos := posMap s.arg0.toNat } } }

end Sys2Proof.Machine
end

