-- ==== Sys2Proof/Machine/Plate.lean ====
section
/-! DEFINITION. Unit RVP, the adapter of the PLATE black box (44_reverb.md parts 2 to 4). -/

namespace Sys2Proof.Machine

/-- `PP(u)`, the full parameter set (R282); the table values are handed over unflushed (log entry 19). -/
def platePP (c : Cfg) (p : RvParams) : PlateParams :=
  { decay := p.decay, diffusion := p.diffusion, predelay := p.predelay, inhc := p.inhc,
    tankhc := p.tankhc, speed := c.rvpSpeedTable p.spos, depth := c.rvpDepthTable p.dpos,
    shape := c.rvpShapeTable p.shpos }

/-- Store a parameter set and re-apply all of it (R305). -/
def rvpApply (c : Cfg) (u : RvpUnit) (p : RvParams) : RvpUnit :=
  { u with p := p, sigma := c.plate.apply u.sigma (platePP c p) }

/-- The state after `RVP.INIT` at rate fs (R290). -/
def rvpInitial (c : Cfg) (fs : F32) : Dp RvpUnit := do
  let p ← rvDefaults c
  pure (rvpApply c { init := true, fs := fs, p := p, sigma := c.plate.init fs } p)

/-- One sample of the Plate (R283, R291). -/
def rvpStep (c : Cfg) (u : RvpUnit) (inL inR : F32) : Dp (RvpUnit × F32 × F32) := do
  let r := c.plate.step u.sigma inL inR
  let outL ← mixLaw c u.p.mix inL r.2.1
  let outR ← mixLaw c u.p.mix inR r.2.2
  pure ({ u with sigma := r.1 }, outL, outR)

/-- `RVP.INIT` (R290). -/
def execRvpInit (s : State) : Host.Outcome State Fault Refusal :=
  checked .rvpInit s <| initialise .rvpInit s fun fs => do
    let u ← rvpInitial Config.cfg fs
    pure { s with rvp := u }

/-- `RVP.PROCESS` (R291). -/
def execRvpProcess (s : State) : Host.Outcome State Fault Refusal :=
  checked .rvpProcess s <| perform s do
    let (u, l, r) ← rvpStep Config.cfg s.rvp s.f0 s.f1
    pure (({ s with rvp := u } : State).respond l r)

/-- `RVP.CLEAR` (R292). -/
def execRvpClear (s : State) : Host.Outcome State Fault Refusal :=
  checked .rvpClear s <| perform s <| pure
    { s with rvp := { s.rvp with sigma := Config.cfg.plate.clear s.rvp.sigma } }

/-- `RVP.SET_MIX` (R293): `PLATE.apply` is not called. -/
def execRvpSetMix (s : State) : Host.Outcome State Fault Refusal :=
  checked .rvpSetMix s <| perform s do
    let v ← Config.cfg.clampUnit s.f0
    pure { s with rvp := { s.rvp with p := { s.rvp.p with mix := v } } }

/-- `RVP.SET_DECAY` (R294). -/
def execRvpSetDecay (s : State) : Host.Outcome State Fault Refusal :=
  checked .rvpSetDecay s <| perform s do
    let v ← Config.cfg.clampUnit s.f0
    pure { s with rvp := rvpApply Config.cfg s.rvp { s.rvp.p with decay := v } }

/-- `RVP.SET_DIFFUSION` (R295). -/
def execRvpSetDiffusion (s : State) : Host.Outcome State Fault Refusal :=
  checked .rvpSetDiffusion s <| perform s do
    let v ← Config.cfg.clampUnit s.f0
    pure { s with rvp := rvpApply Config.cfg s.rvp { s.rvp.p with diffusion := v } }

/-- `RVP.SET_PREDELAY` (R296). -/
def execRvpSetPredelay (s : State) : Host.Outcome State Fault Refusal :=
  checked .rvpSetPredelay s <| perform s do
    let v ← Config.cfg.clampUnit s.f0
    pure { s with rvp := rvpApply Config.cfg s.rvp { s.rvp.p with predelay := v } }

/-- `RVP.SET_INPUT_HIGHCUT` (R297). -/
def execRvpSetInputHighcut (s : State) : Host.Outcome State Fault Refusal :=
  checked .rvpSetInputHighcut s <| perform s do
    let v ← Config.cfg.clampUnit s.f0
    pure { s with rvp := rvpApply Config.cfg s.rvp { s.rvp.p with inhc := v } }

/-- `RVP.SET_TANK_HIGHCUT` (R298). -/
def execRvpSetTankHighcut (s : State) : Host.Outcome State Fault Refusal :=
  checked .rvpSetTankHighcut s <| perform s do
    let v ← Config.cfg.clampUnit s.f0
    pure { s with rvp := rvpApply Config.cfg s.rvp { s.rvp.p with tankhc := v } }

/-- `RVP.SET_TANK_MOD_SPEED` (R299): a u32 operand. -/
def execRvpSetTankModSpeed (s : State) : Host.Outcome State Fault Refusal :=
  checked .rvpSetTankModSpeed s <| perform s <| pure
    { s with rvp := rvpApply Config.cfg s.rvp { s.rvp.p with spos := posMap s.arg0.toNat } }

/-- `RVP.SET_TANK_MOD_DEPTH` (R300): a u32 operand. -/
def execRvpSetTankModDepth (s : State) : Host.Outcome State Fault Refusal :=
  checked .rvpSetTankModDepth s <| perform s <| pure
    { s with rvp := rvpApply Config.cfg s.rvp { s.rvp.p with dpos := posMap s.arg0.toNat } }

/-- `RVP.SET_TANK_MOD_SHAPE` (R301): a u32 operand. -/
def execRvpSetTankModShape (s : State) : Host.Outcome State Fault Refusal :=
  checked .rvpSetTankModShape s <| perform s <| pure
    { s with rvp := rvpApply Config.cfg s.rvp { s.rvp.p with shpos := posMap s.arg0.toNat } }

end Sys2Proof.Machine
end

