-- ==== Sys2Proof/Machine/Spring.lean ====
section
/-! DEFINITION. Unit RVS, the waveguide (46_reverb_spring.md). -/

namespace Sys2Proof.Machine

/-- `g = clamp(decay, 0.0, RVS_DECAY_MAX)` (R354). -/
def springGain (c : Cfg) (decay : F32) : Dp F32 := c.clamp decay F32.zero c.rvsDecayMax

/-- The state after `RVS.INIT` at rate fs (R360). -/
def rvsInitial (c : Cfg) (fs : F32) : Dp RvsUnit := do
  let p ← rvDefaults c
  let g ← springGain c p.decay
  pure
    { init := true, fs := fs, p := p, wg := Line.zero, da0 := Line.zero, da1 := Line.zero,
      da2 := Line.zero, da3 := Line.zero, z := F32.zero, g := g }

/-- The wet sum of the loop output and the two taps (R355). -/
def springWet (c : Cfg) (y t1 t2 : F32) : Dp F32 := do
  let a1 ← c.mul (c.rvsTapGain 0) t1
  let s ← c.add y a1
  let a2 ← c.mul (c.rvsTapGain 1) t2
  let s ← c.add s a2
  c.mul s c.rvsOutGain

/-- One sample of the Spring, in the order of R350 (R361). -/
def rvsStep (c : Cfg) (u : RvsUnit) (inL inR : F32) : Dp (RvsUnit × F32 × F32) := do
  let x ← monoInput c inL inR
  let e ← c.mul c.rvsDrive x
  let (v0, da0) ← allpass c (c.rvsApLen 0) u.da0 (c.rvsApCoef 0) (c.tanh e)
  let (v1, da1) ← allpass c (c.rvsApLen 1) u.da1 (c.rvsApCoef 1) v0
  let (v2, da2) ← allpass c (c.rvsApLen 2) u.da2 (c.rvsApCoef 2) v1
  let (v, da3) ← allpass c (c.rvsApLen 3) u.da3 (c.rvsApCoef 3) v2
  let y := u.wg.hist (c.rvsLen + 1) c.rvsLen
  let t1 := u.wg.hist (c.rvsLen + 1) (c.rvsTap 0)
  let t2 := u.wg.hist (c.rvsLen + 1) (c.rvsTap 1)
  let zf ← lp1 c u.z c.rvsDampCoef y
  let r ← c.mul u.g zf
  let b ← c.add v r
  let wet ← springWet c y t1 t2
  let outL ← mixLaw c u.p.mix inL wet
  let outR ← mixLaw c u.p.mix inR wet
  pure
    ({ u with
        wg := u.wg.push (c.rvsLen + 1) b, da0 := da0, da1 := da1, da2 := da2, da3 := da3, z := zf },
      outL, outR)

/-- `RVS.INIT` (R360). -/
def execRvsInit (s : State) : Host.Outcome State Fault Refusal :=
  checked .rvsInit s <| initialise .rvsInit s fun fs => do
    let u ← rvsInitial Config.cfg fs
    pure { s with rvs := u }

/-- `RVS.PROCESS` (R361). -/
def execRvsProcess (s : State) : Host.Outcome State Fault Refusal :=
  checked .rvsProcess s <| perform s do
    let (u, l, r) ← rvsStep Config.cfg s.rvs s.f0 s.f1
    pure (({ s with rvs := u } : State).respond l r)

/-- `RVS.CLEAR` (R276, R362): the parameters and `g` are kept. -/
def execRvsClear (s : State) : Host.Outcome State Fault Refusal :=
  checked .rvsClear s <| perform s <| pure
    { s with
      rvs := { s.rvs with
        wg := Line.zero, da0 := Line.zero, da1 := Line.zero, da2 := Line.zero, da3 := Line.zero,
        z := F32.zero } }

/-- `RVS.SET_MIX` (R363). -/
def execRvsSetMix (s : State) : Host.Outcome State Fault Refusal :=
  checked .rvsSetMix s <| perform s do
    let v ← Config.cfg.clampUnit s.f0
    pure { s with rvs := { s.rvs with p := { s.rvs.p with mix := v } } }

/-- `RVS.SET_DECAY` (R364). -/
def execRvsSetDecay (s : State) : Host.Outcome State Fault Refusal :=
  checked .rvsSetDecay s <| perform s do
    let v ← Config.cfg.clampUnit s.f0
    let g ← springGain Config.cfg v
    pure { s with rvs := { s.rvs with p := { s.rvs.p with decay := v }, g := g } }

/-- `RVS.SET_DIFFUSION` (R365): an ignored setter, which stores its clamped value (R271, R277). -/
def execRvsSetDiffusion (s : State) : Host.Outcome State Fault Refusal :=
  checked .rvsSetDiffusion s <| perform s do
    let v ← Config.cfg.clampUnit s.f0
    pure { s with rvs := { s.rvs with p := { s.rvs.p with diffusion := v } } }

/-- `RVS.SET_PREDELAY` (R366): an ignored setter, which stores its clamped value (R271, R277). -/
def execRvsSetPredelay (s : State) : Host.Outcome State Fault Refusal :=
  checked .rvsSetPredelay s <| perform s do
    let v ← Config.cfg.clampUnit s.f0
    pure { s with rvs := { s.rvs with p := { s.rvs.p with predelay := v } } }

/-- `RVS.SET_INPUT_HIGHCUT` (R367): an ignored setter, which stores its clamped value (R271, R277). -/
def execRvsSetInputHighcut (s : State) : Host.Outcome State Fault Refusal :=
  checked .rvsSetInputHighcut s <| perform s do
    let v ← Config.cfg.clampUnit s.f0
    pure { s with rvs := { s.rvs with p := { s.rvs.p with inhc := v } } }

/-- `RVS.SET_TANK_HIGHCUT` (R368): an ignored setter, which stores its clamped value (R271, R277). -/
def execRvsSetTankHighcut (s : State) : Host.Outcome State Fault Refusal :=
  checked .rvsSetTankHighcut s <| perform s do
    let v ← Config.cfg.clampUnit s.f0
    pure { s with rvs := { s.rvs with p := { s.rvs.p with tankhc := v } } }

/-- `RVS.SET_TANK_MOD_SPEED` (R369): an ignored setter with a u32 operand (R271, R277). -/
def execRvsSetTankModSpeed (s : State) : Host.Outcome State Fault Refusal :=
  checked .rvsSetTankModSpeed s <| perform s <| pure
    { s with rvs := { s.rvs with p := { s.rvs.p with spos := posMap s.arg0.toNat } } }

/-- `RVS.SET_TANK_MOD_DEPTH` (R370): an ignored setter with a u32 operand (R271, R277). -/
def execRvsSetTankModDepth (s : State) : Host.Outcome State Fault Refusal :=
  checked .rvsSetTankModDepth s <| perform s <| pure
    { s with rvs := { s.rvs with p := { s.rvs.p with dpos := posMap s.arg0.toNat } } }

/-- `RVS.SET_TANK_MOD_SHAPE` (R371): an ignored setter with a u32 operand (R271, R277). -/
def execRvsSetTankModShape (s : State) : Host.Outcome State Fault Refusal :=
  checked .rvsSetTankModShape s <| perform s <| pure
    { s with rvs := { s.rvs with p := { s.rvs.p with shpos := posMap s.arg0.toNat } } }

end Sys2Proof.Machine
end

