-- ==== Sys2Proof/Machine/Tremolo.lean ====
section
/-! DEFINITION. The tremolo units TRS, TRQ and TRH (43_tremolo.md). -/

namespace Sys2Proof.Machine

/-- `SETDEPTH(u, d)` with factor `k`: the depth, and the oscillator with its amplitude (R231). DEDUCED (log
entry 10): R231 calls the product by `HALF` exact; below a depth of 2^-125 it can be rounded, or flushed
under `FTZ`, and the model follows the pseudocode's operation. -/
def setDepth (c : Cfg) (o : Osc) (d k : F32) : Dp (F32 × Osc) := do
  let depth ← c.clampUnit d
  let amp ← c.mul depth k
  pure (depth, { o with amp := amp })

/-- The oscillator and depth that a tremolo's `INIT` sets, from the defaults (R235, R240, R250). -/
def trmOsc (c : Cfg) (w : Wave) (k fs : F32) : Dp (F32 × Osc) := do
  let o ← setFreq c { Osc.initial with wave := w } c.defTrmSpeed fs
  setDepth c o c.defTrmDepth k

/-- The state after `TRS.INIT` or `TRQ.INIT` at rate fs (R235, R240). -/
def trmInitial (c : Cfg) (w : Wave) (fs : F32) : Dp TrmUnit := do
  let (depth, o) ← trmOsc c w F32.half fs
  pure { init := true, fs := fs, o := o, depth := depth, last := F32.zero }

/-- One sample of TRS or TRQ: gain `1 − depth/2 + lfo` on both channels (R236, R241). -/
def trmStep (c : Cfg) (u : TrmUnit) (inL inR : F32) : Dp (TrmUnit × F32 × F32) := do
  let (lfo, o) ← oscStep c u.o
  let t ← c.mul u.depth F32.half
  let b ← c.sub F32.one t
  let g ← c.add b lfo
  let outL ← c.mul inL g
  let outR ← c.mul inR g
  pure ({ u with o := o, last := lfo }, outL, outR)

/-- The seven filters' coefficients (R249). -/
def trhCoefs (c : Cfg) (fs : F32) : Dp TrhCoef := do
  let aLo ← opCoefClamped c Config.trhLowFc fs
  let aHi ← opCoefClamped c Config.trhHighFc fs
  let aEqhp ← opCoefClamped c c.trhEqHpFc fs
  let aEqlp ← opCoefClamped c c.trhEqLpFc fs
  let ls ← shelfClamped c c.trhEqLs.fc c.trhEqLs.q c.trhEqLs.gainDb fs
  let pk1 ← peakClamped c c.trhEqPk1.fc c.trhEqPk1.q c.trhEqPk1.gainDb fs
  let pk2 ← peakClamped c c.trhEqPk2.fc c.trhEqPk2.q c.trhEqPk2.gainDb fs
  pure
    { aLo := aLo, aHi := aHi, aEqhp := aEqhp, aEqlp := aEqlp, ls := ls, pk1 := pk1, pk2 := pk2 }

/-- The state after `TRH.INIT` at rate fs (R250). -/
def trhInitial (c : Cfg) (fs : F32) : Dp TrhUnit := do
  let (depth, o) ← trmOsc c .sine Config.trhDepthScale fs
  let k ← trhCoefs c fs
  pure
    { init := true, fs := fs, o := o, depth := depth, last := F32.zero, k := k,
      chL := TrhChan.zero, chR := TrhChan.zero }

/-- The five-stage cascade on `m`: the output and the channel's memories (R155, R248). -/
def trhEq (c : Cfg) (k : TrhCoef) (ch : TrhChan) (m : F32) : Dp (F32 × TrhChan) := do
  let (e1, eqhp) ← hp1 c ch.eqhp k.aEqhp m
  let e2 ← lp1 c ch.eqlp k.aEqlp e1
  let (e3, eqls) ← bq2 c k.ls ch.eqls e2
  let (e4, eqpk1) ← bq2 c k.pk1 ch.eqpk1 e3
  let (y, eqpk2) ← bq2 c k.pk2 ch.eqpk2 e4
  pure (y, { ch with eqhp := eqhp, eqlp := e2, eqls := eqls, eqpk1 := eqpk1, eqpk2 := eqpk2 })

/-- One channel of TRH on input `x`: band split, opposite modulation, recombination, EQ (R246 to
R248, R251). -/
def trhChannel (c : Cfg) (k : TrhCoef) (lfo : F32) (ch : TrhChan) (x : F32) :
    Dp (F32 × TrhChan) := do
  let lo ← lp1 c ch.lo k.aLo x
  let (hi, hiState) ← hp1 c ch.hi k.aHi x
  let gp ← c.add F32.one lfo
  let gm ← c.sub F32.one lfo
  let a ← c.mul lo gp
  let b ← c.mul hi gm
  let m ← c.add a b
  trhEq c k { ch with lo := lo, hi := hiState } m

/-- One sample of TRH (R251). -/
def trhStep (c : Cfg) (u : TrhUnit) (inL inR : F32) : Dp (TrhUnit × F32 × F32) := do
  let (lfo, o) ← oscStep c u.o
  let (outL, chL) ← trhChannel c u.k lfo u.chL inL
  let (outR, chR) ← trhChannel c u.k lfo u.chR inR
  pure ({ u with o := o, last := lfo, chL := chL, chR := chR }, outL, outR)

/-- `TRS.INIT` (R235). -/
def execTrsInit (s : State) : Host.Outcome State Fault Refusal :=
  checked .trsInit s <| initialise .trsInit s fun fs => do
    let u ← trmInitial Config.cfg .sine fs
    pure { s with trs := u }

/-- `TRS.PROCESS` (R236). -/
def execTrsProcess (s : State) : Host.Outcome State Fault Refusal :=
  checked .trsProcess s <| perform s do
    let (u, l, r) ← trmStep Config.cfg s.trs s.f0 s.f1
    pure (({ s with trs := u } : State).respond l r)

/-- `TRS.SET_SPEED` (R232, R237). -/
def execTrsSetSpeed (s : State) : Host.Outcome State Fault Refusal :=
  checked .trsSetSpeed s <| perform s do
    let o ← setFreq Config.cfg s.trs.o s.f0 s.trs.fs
    pure { s with trs := { s.trs with o := o } }

/-- `TRS.SET_DEPTH` (R231, R238). -/
def execTrsSetDepth (s : State) : Host.Outcome State Fault Refusal :=
  checked .trsSetDepth s <| perform s do
    let (depth, o) ← setDepth Config.cfg s.trs.o s.f0 F32.half
    pure { s with trs := { s.trs with depth := depth, o := o } }

/-- `TRS.GET_LAST_LFO` (R233, R239). -/
def execTrsGetLastLfo (s : State) : Host.Outcome State Fault Refusal :=
  checked .trsGetLastLfo s <| perform s <| pure (s.respond s.trs.last 0#32)

/-- `TRQ.INIT` (R240). -/
def execTrqInit (s : State) : Host.Outcome State Fault Refusal :=
  checked .trqInit s <| initialise .trqInit s fun fs => do
    let u ← trmInitial Config.cfg .rsquare fs
    pure { s with trq := u }

/-- `TRQ.PROCESS` (R241). -/
def execTrqProcess (s : State) : Host.Outcome State Fault Refusal :=
  checked .trqProcess s <| perform s do
    let (u, l, r) ← trmStep Config.cfg s.trq s.f0 s.f1
    pure (({ s with trq := u } : State).respond l r)

/-- `TRQ.SET_SPEED` (R232, R242). -/
def execTrqSetSpeed (s : State) : Host.Outcome State Fault Refusal :=
  checked .trqSetSpeed s <| perform s do
    let o ← setFreq Config.cfg s.trq.o s.f0 s.trq.fs
    pure { s with trq := { s.trq with o := o } }

/-- `TRQ.SET_DEPTH` (R231, R243). -/
def execTrqSetDepth (s : State) : Host.Outcome State Fault Refusal :=
  checked .trqSetDepth s <| perform s do
    let (depth, o) ← setDepth Config.cfg s.trq.o s.f0 F32.half
    pure { s with trq := { s.trq with depth := depth, o := o } }

/-- `TRQ.GET_LAST_LFO` (R233, R244). -/
def execTrqGetLastLfo (s : State) : Host.Outcome State Fault Refusal :=
  checked .trqGetLastLfo s <| perform s <| pure (s.respond s.trq.last 0#32)

/-- `TRH.INIT` (R250). -/
def execTrhInit (s : State) : Host.Outcome State Fault Refusal :=
  checked .trhInit s <| initialise .trhInit s fun fs => do
    let u ← trhInitial Config.cfg fs
    pure { s with trh := u }

/-- `TRH.PROCESS` (R251). -/
def execTrhProcess (s : State) : Host.Outcome State Fault Refusal :=
  checked .trhProcess s <| perform s do
    let (u, l, r) ← trhStep Config.cfg s.trh s.f0 s.f1
    pure (({ s with trh := u } : State).respond l r)

/-- `TRH.SET_SPEED` (R232, R252). -/
def execTrhSetSpeed (s : State) : Host.Outcome State Fault Refusal :=
  checked .trhSetSpeed s <| perform s do
    let o ← setFreq Config.cfg s.trh.o s.f0 s.trh.fs
    pure { s with trh := { s.trh with o := o } }

/-- `TRH.SET_DEPTH` (R231, R253). -/
def execTrhSetDepth (s : State) : Host.Outcome State Fault Refusal :=
  checked .trhSetDepth s <| perform s do
    let (depth, o) ← setDepth Config.cfg s.trh.o s.f0 Config.trhDepthScale
    pure { s with trh := { s.trh with depth := depth, o := o } }

/-- `TRH.GET_LAST_LFO` (R233, R254). -/
def execTrhGetLastLfo (s : State) : Host.Outcome State Fault Refusal :=
  checked .trhGetLastLfo s <| perform s <| pure (s.respond s.trh.last 0#32)

end Sys2Proof.Machine
end

