-- ==== Sys2Proof/Machine/Dispatch.lean ====
section
/-! DEFINITION. One arm per command: its meaning. -/

namespace Sys2Proof.Machine

def exec (i : Instr) (s : State) : Host.Outcome State Fault Refusal :=
  match i with
  | .bqInit => Sys2Proof.Machine.execBqInit s
  | .bqProcess => Sys2Proof.Machine.execBqProcess s
  | .bqClear => Sys2Proof.Machine.execBqClear s
  | .bqSetPeaking => Sys2Proof.Machine.execBqSetPeaking s
  | .bqSetLowshelf => Sys2Proof.Machine.execBqSetLowshelf s
  | .opInit => Sys2Proof.Machine.execOpInit s
  | .opProcess => Sys2Proof.Machine.execOpProcess s
  | .opClear => Sys2Proof.Machine.execOpClear s
  | .opSetLowpass => Sys2Proof.Machine.execOpSetLowpass s
  | .opSetHighpass => Sys2Proof.Machine.execOpSetHighpass s
  | .lfoInit => Sys2Proof.Machine.execLfoInit s
  | .lfoProcess => Sys2Proof.Machine.execLfoProcess s
  | .lfoClear => Sys2Proof.Machine.execLfoClear s
  | .lfoSetFreq => Sys2Proof.Machine.execLfoSetFreq s
  | .lfoSetAmp => Sys2Proof.Machine.execLfoSetAmp s
  | .lfoSetWaveform => Sys2Proof.Machine.execLfoSetWaveform s
  | .dlyInit => Sys2Proof.Machine.execDlyInit s
  | .dlyProcess => Sys2Proof.Machine.execDlyProcess s
  | .dlyClear => Sys2Proof.Machine.execDlyClear s
  | .dlySetDelayTime => Sys2Proof.Machine.execDlySetDelayTime s
  | .dlySetFeedback => Sys2Proof.Machine.execDlySetFeedback s
  | .trsInit => Sys2Proof.Machine.execTrsInit s
  | .trsProcess => Sys2Proof.Machine.execTrsProcess s
  | .trsSetSpeed => Sys2Proof.Machine.execTrsSetSpeed s
  | .trsSetDepth => Sys2Proof.Machine.execTrsSetDepth s
  | .trsGetLastLfo => Sys2Proof.Machine.execTrsGetLastLfo s
  | .trqInit => Sys2Proof.Machine.execTrqInit s
  | .trqProcess => Sys2Proof.Machine.execTrqProcess s
  | .trqSetSpeed => Sys2Proof.Machine.execTrqSetSpeed s
  | .trqSetDepth => Sys2Proof.Machine.execTrqSetDepth s
  | .trqGetLastLfo => Sys2Proof.Machine.execTrqGetLastLfo s
  | .trhInit => Sys2Proof.Machine.execTrhInit s
  | .trhProcess => Sys2Proof.Machine.execTrhProcess s
  | .trhSetSpeed => Sys2Proof.Machine.execTrhSetSpeed s
  | .trhSetDepth => Sys2Proof.Machine.execTrhSetDepth s
  | .trhGetLastLfo => Sys2Proof.Machine.execTrhGetLastLfo s
  | .rvpInit => Sys2Proof.Machine.execRvpInit s
  | .rvpProcess => Sys2Proof.Machine.execRvpProcess s
  | .rvpClear => Sys2Proof.Machine.execRvpClear s
  | .rvpSetMix => Sys2Proof.Machine.execRvpSetMix s
  | .rvpSetDecay => Sys2Proof.Machine.execRvpSetDecay s
  | .rvpSetDiffusion => Sys2Proof.Machine.execRvpSetDiffusion s
  | .rvpSetPredelay => Sys2Proof.Machine.execRvpSetPredelay s
  | .rvpSetInputHighcut => Sys2Proof.Machine.execRvpSetInputHighcut s
  | .rvpSetTankHighcut => Sys2Proof.Machine.execRvpSetTankHighcut s
  | .rvpSetTankModSpeed => Sys2Proof.Machine.execRvpSetTankModSpeed s
  | .rvpSetTankModDepth => Sys2Proof.Machine.execRvpSetTankModDepth s
  | .rvpSetTankModShape => Sys2Proof.Machine.execRvpSetTankModShape s
  | .rvhInit => Sys2Proof.Machine.execRvhInit s
  | .rvhProcess => Sys2Proof.Machine.execRvhProcess s
  | .rvhClear => Sys2Proof.Machine.execRvhClear s
  | .rvhSetMix => Sys2Proof.Machine.execRvhSetMix s
  | .rvhSetDecay => Sys2Proof.Machine.execRvhSetDecay s
  | .rvhSetDiffusion => Sys2Proof.Machine.execRvhSetDiffusion s
  | .rvhSetPredelay => Sys2Proof.Machine.execRvhSetPredelay s
  | .rvhSetInputHighcut => Sys2Proof.Machine.execRvhSetInputHighcut s
  | .rvhSetTankHighcut => Sys2Proof.Machine.execRvhSetTankHighcut s
  | .rvhSetTankModSpeed => Sys2Proof.Machine.execRvhSetTankModSpeed s
  | .rvhSetTankModDepth => Sys2Proof.Machine.execRvhSetTankModDepth s
  | .rvhSetTankModShape => Sys2Proof.Machine.execRvhSetTankModShape s
  | .rvsInit => Sys2Proof.Machine.execRvsInit s
  | .rvsProcess => Sys2Proof.Machine.execRvsProcess s
  | .rvsClear => Sys2Proof.Machine.execRvsClear s
  | .rvsSetMix => Sys2Proof.Machine.execRvsSetMix s
  | .rvsSetDecay => Sys2Proof.Machine.execRvsSetDecay s
  | .rvsSetDiffusion => Sys2Proof.Machine.execRvsSetDiffusion s
  | .rvsSetPredelay => Sys2Proof.Machine.execRvsSetPredelay s
  | .rvsSetInputHighcut => Sys2Proof.Machine.execRvsSetInputHighcut s
  | .rvsSetTankHighcut => Sys2Proof.Machine.execRvsSetTankHighcut s
  | .rvsSetTankModSpeed => Sys2Proof.Machine.execRvsSetTankModSpeed s
  | .rvsSetTankModDepth => Sys2Proof.Machine.execRvsSetTankModDepth s
  | .rvsSetTankModShape => Sys2Proof.Machine.execRvsSetTankModShape s

end Sys2Proof.Machine
end

