-- ==== Sys2Proof/WellFormed.lean ====
section
/-! DEFINITION. Which terms the spec admits: commands whose word the format allows (30_encoding.md
R110 to R114), and host accesses that the window admits (20_memory.md R80, R82, R83). -/

namespace Sys2Proof

/-- A word the format `CMD32` allows: `RSV` zero, a unit of R112, and an `OP` that the unit defines
(R110, R112, R113). -/
def wellFormedWord (w : Word) : Bool :=
  rsvField w == 0#20 &&
    match unitOfCode (unitField w).toNat with
    | none => false
    | some u => (commandOf u (opField w).toNat).isSome

/-- A command is well formed when its word is. A command has no operand fields (R111), so every
command is: `Laws` proves it. -/
def wellFormed (i : Instr) : Bool := wellFormedWord (encode i)

/-- The access lies in the 64-byte window (R80). -/
def Access.inWindow (a : Access) : Bool := decide (a.off.toNat < 64)

/-- The access is 32 bits wide (R82). -/
def Access.wordWide (a : Access) : Bool := a.width == .w32

/-- The access is at a multiple of 4 (R83). -/
def Access.aligned (a : Access) : Bool := a.off.toNat % 4 == 0

/-- An access the window admits (R80, R82, R83). -/
def Access.admitted (a : Access) : Bool := a.inWindow && a.wordWide && a.aligned

end Sys2Proof
end

