-- ==== Sys2Proof/Machine/Window.lean ====
section
/-! DEFINITION. The register window and what reaches it from outside (10_state.md R42; 20_memory.md
R80 to R88, R97; 70_reset_and_hazards.md R450). -/

namespace Sys2Proof.Machine

/-- `MemRead` at offset `o` (R42, R86): `CMD` and the reserved offsets read as 0. -/
def memRead (o : Nat) (s : State) : Word :=
  match o with
  | 0x04 => s.arg0
  | 0x08 => s.arg1
  | 0x0C => s.arg2
  | 0x10 => s.res0
  | 0x14 => s.res1
  | 0x18 => statusWord s
  | 0x1C => errinfoWord s
  | 0x20 => s.errcmd
  | 0x24 => 0x464C4B01#32
  | _ => 0#32

/-- `MemWrite` of `v` at offset `o` (R86): `CMD` performs a command by `run`, the ARG registers store,
and every other offset raises `BAD_REGISTER` with the offset (R409). -/
def memWrite (run : Word → State → Host.Outcome State Fault Refusal) (o : Nat) (v : Word)
    (s : State) : Host.Outcome State Fault Refusal :=
  match o with
  | 0x00 => run v s
  | 0x04 => .next { s with arg0 := v }
  | 0x08 => .next { s with arg1 := v }
  | 0x0C => .next { s with arg2 := v }
  | _ => .next (s.raise .badRegister (BitVec.ofNat 32 o))

/-- One host access (R80, R82 to R84): outside the window it is not the block's; a wrong width or
alignment is refused. A read has no effect but the value it returns (R85). -/
def hostAccess (run : Word → State → Host.Outcome State Fault Refusal) (a : Access) (s : State) :
    Host.Outcome State Fault Refusal :=
  if a.inWindow = false then .fault .outsideWindow
  else if a.wordWide = false then .refused .accessWidth
  else if a.aligned = false then .refused .misaligned
  else
    match a.kind with
    | .read => .next { s with lastRead := some (memRead a.off.toNat s) }
    | .write => memWrite run a.off.toNat a.data s

/-- Block reset (R450): every register and `init` at its reset value. Unit state, which R450 leaves
unspecified, takes the values named for reset (log entry 3). What is the model's own stays: the
accesses still to come, the last value read, and the count of NaNs drawn. -/
def blockReset (s : State) : State :=
  { State.reset with pending := s.pending, lastRead := s.lastRead, draws := s.draws }

/-- What an event does to the block. -/
def hostEvent (run : Word → State → Host.Outcome State Fault Refusal) (e : HostEvent) (s : State) :
    Host.Outcome State Fault Refusal :=
  match e with
  | .access a => hostAccess run a s
  | .concurrent _ _ => .refused .concurrentHosts
  | .blockReset => .next (blockReset s)

/-- `o = addr − BASE` (R86), on the host's 32-bit addresses. -/
def windowOffset (addr : Word) : Word := addr - Config.cfg.base

/-- The host reads 32 bits at an address of its own space (R86, R119). -/
def busRead (addr : Word) : HostEvent := .access ⟨.read, .w32, windowOffset addr, 0#32⟩

/-- The host writes 32 bits at an address of its own space (R86, R119). -/
def busWrite (addr v : Word) : HostEvent := .access ⟨.write, .w32, windowOffset addr, v⟩

/-- A 32-bit write of `w` to `CMD`, which performs the command `w` (R84). -/
def cmdWrite (w : Word) : HostEvent := .access ⟨.write, .w32, 0#32, w⟩

end Sys2Proof.Machine
end

