-- ==== Sys2Proof/Machine/Step.lean ====
section
/-! DEFINITION. One step of the machine: the next event reaches the block and is performed whole
(20_memory.md R84; 60_exceptions.md R403, R425). The block has no program counter and fetches nothing
(10_state.md R41): its program is the host's sequence of accesses. -/

namespace Sys2Proof.Machine

/-- `Execute(w)` (R403): an undefined word raises the decoder's verdict, with the word as detail; a
command has its meaning. -/
def execute (w : Word) (s : State) : Host.Outcome State Fault Refusal :=
  match decode w with
  | .error c => .next (s.raise c w)
  | .ok i => exec i s

/-- The next pending event, performed with the rest still pending; an idle block changes no state
(R425). -/
def step (s : State) : Host.Outcome State Fault Refusal :=
  match s.pending with
  | [] => .next s
  | e :: rest => hostEvent execute e { s with pending := rest }

/-- `s` with the host about to write the instruction `w` to `CMD`, before everything already pending
(log entry 1: this stands for the host's access, which is how a program comes to run). -/
def State.withFetchWord (s : State) (nbits w : Nat) : State :=
  { s with pending := cmdWrite (BitVec.ofNat 32 (w % 2 ^ nbits)) :: s.pending }

end Sys2Proof.Machine
end

