-- ==== Sys2Proof/Safety.lean ====
section
/-! DEFINITION. What a safe run is, in the terms the statements use: the invariants of the block, which
accesses are admitted, and which state belongs to which unit. -/

namespace Sys2Proof

/-- A computation that gives `a` and draws no NaN. -/
def Dp.Gives {α : Type} (p : Dp α) (k : Nat) (a : α) : Prop := p k = (a, k)

/-- `lo ≤ x ≤ hi`; false of a NaN. -/
def F32.within (lo x hi : F32) : Bool := F32.le lo x && F32.le x hi

/-- A normalised value as the rules store it: +0 below or at zero, `ONE` from one up, else itself (R13,
R272). -/
def F32.unitClamped (x : F32) : F32 :=
  if F32.lt F32.zero x = false then F32.zero else if F32.lt x F32.one then x else F32.one

/-- A value brought into `lo..hi` (R13), for bounds above zero. -/
def F32.clamped (x lo hi : F32) : F32 :=
  if F32.lt x lo then lo else if F32.lt hi x then hi else x

/-- The binary32 value of an integer, rounded to nearest (exact below 2^24); zero is +0. -/
def F32.ofInt (n : Int) : F32 :=
  F32.pack (decide (n < 0)) (F32.roundUnits (n.natAbs * 2 ^ 149) 1)

/-- 0.75, and 2^25: bounds used by the invariants. -/
def F32.threeQuarters : F32 := 0x3F400000#32
@[inherit_doc F32.threeQuarters] def F32.twoPow25 : F32 := 0x4C000000#32

namespace Machine

/-- The sample rate of a unit (R48). -/
def unitFs (u : UnitId) (s : State) : F32 :=
  match u with
  | .bq => s.bq.fs
  | .op => s.op.fs
  | .lfo => s.lfo.fs
  | .dly => s.dly.fs
  | .trs => s.trs.fs
  | .trq => s.trq.fs
  | .trh => s.trh.fs
  | .rvp => s.rvp.fs
  | .rvh => s.rvh.fs
  | .rvs => s.rvs.fs

/-- Two states hold the same state of unit `u`. -/
def sameUnit (u : UnitId) (s t : State) : Prop :=
  match u with
  | .bq => s.bq = t.bq
  | .op => s.op = t.op
  | .lfo => s.lfo = t.lfo
  | .dly => s.dly = t.dly
  | .trs => s.trs = t.trs
  | .trq => s.trq = t.trq
  | .trh => s.trh = t.trh
  | .rvp => s.rvp = t.rvp
  | .rvh => s.rvh = t.rvh
  | .rvs => s.rvs = t.rvs

/-- Two states agree on the error record (R43 to R45). -/
def sameErrors (s t : State) : Prop := s.err = t.err ∧ s.cause = t.cause ∧ s.errcmd = t.errcmd

/-- Two states agree on what no command writes: the operand registers, the accesses still to come, and the
last value read (R42). -/
def sameInputs (s t : State) : Prop :=
  s.arg0 = t.arg0 ∧ s.arg1 = t.arg1 ∧ s.arg2 = t.arg2 ∧ s.pending = t.pending ∧
    s.lastRead = t.lastRead

/-- The commands that produce results: `PROCESS` of every unit and the three `GET_LAST_LFO` (R463). -/
def producesResult (i : Instr) : Bool := i.op == 0x01#8 || i.op == 0x20#8

/-- The checks of a command pass: the unit is initialised (or the command is `INIT`), and every f32 operand
it reads is finite (R403). -/
def Passes (i : Instr) (s : State) : Prop :=
  (i.op = 0x00#8 ∨ unitInit i.unit s = true) ∧ operandsFinite i s = true

/-- The error record is consistent (R401, R402, R44, R45): nothing recorded while `ERR` is 0, a cause of
R401 while it is 1. -/
structure ErrorRecord (s : State) : Prop where
  none : s.err = false → s.cause = 0#8 ∧ s.errcmd = 0#32
  some : s.err = true → 1 ≤ s.cause.toNat ∧ s.cause.toNat ≤ 6

/-- Every delay line of the block has the canonical form of its length (R57, R58, R89), and the two lines
of DLY have one index (R52, R89). -/
structure LinesCanonical (s : State) : Prop where
  lineL : s.dly.lineL.wf (dlyLen Config.cfg) = true
  lineR : s.dly.lineR.wf (dlyLen Config.cfg) = true
  shared : s.dly.lineL.w = s.dly.lineR.w
  pre : s.rvh.pre.wf (Config.cfg.rvhPredelayMax + 1) = true
  ap0 : s.rvh.ap0.wf (Config.cfg.rvhApLen 0 + 1) = true
  ap1 : s.rvh.ap1.wf (Config.cfg.rvhApLen 1 + 1) = true
  ln : ∀ k, (s.rvh.ln.get k).wf (hallLen Config.cfg k) = true
  wg : s.rvs.wg.wf (Config.cfg.rvsLen + 1) = true
  da0 : s.rvs.da0.wf (Config.cfg.rvsApLen 0 + 1) = true
  da1 : s.rvs.da1.wf (Config.cfg.rvsApLen 1 + 1) = true
  da2 : s.rvs.da2.wf (Config.cfg.rvsApLen 2 + 1) = true
  da3 : s.rvs.da3.wf (Config.cfg.rvsApLen 3 + 1) = true

/-- The six continuous parameters of a reverb lie in [0,1] (R55). -/
structure RvParams.InRange (p : RvParams) : Prop where
  mix : F32.inUnit p.mix = true
  decay : F32.inUnit p.decay = true
  diffusion : F32.inUnit p.diffusion = true
  predelay : F32.inUnit p.predelay = true
  inhc : F32.inUnit p.inhc = true
  tankhc : F32.inUnit p.tankhc = true

/-- Every clamped parameter is in its range (R55, R194, R205, R231, R312, R316, R318, R354). -/
structure ParamsInRange (s : State) : Prop where
  amp : F32.inUnit s.lfo.o.amp = true
  fb : F32.inUnit s.dly.fb = true
  trs : F32.inUnit s.trs.depth = true
  trq : F32.inUnit s.trq.depth = true
  trh : F32.inUnit s.trh.depth = true
  rvp : s.rvp.p.InRange
  rvh : s.rvh.p.InRange
  rvs : s.rvs.p.InRange
  pd : s.rvh.pd ≤ Config.cfg.rvhPredelayMax
  hallG : F32.le F32.zero s.rvh.g = true ∧ F32.lt s.rvh.g F32.one = true
  hallAd : s.rvh.init = true → F32.lt F32.zero s.rvh.ad = true ∧ F32.le s.rvh.ad F32.one = true
  springG : F32.within F32.zero s.rvs.g Config.cfg.rvsDecayMax = true

/-- The delay times of an initialised DLY: its bounds as R200 sets them, the target between them, and the
smoothed time within [0, 2^25]. R202 says that the smoothed time stays between the bounds up to
rounding; the wide interval is what holds of every state (log entry 10). -/
structure DelayInRange (s : State) : Prop where
  dmax : s.dly.init = true → s.dly.dmax = F32.ofNat Config.cfg.maxDelaySamples
  dlo : s.dly.init = true → F32.within F32.one s.dly.dlo s.dly.dmax = true
  dt : s.dly.init = true → F32.within s.dly.dlo s.dly.dt s.dly.dmax = true
  dc : s.dly.init = true → F32.within F32.zero s.dly.dc F32.twoPow25 = true

/-- An oscillator in range: its phase in [0,1) (R51), and its increment in [0, 0.75]. R185 says [0, 0.5];
the rounding of fs/2 exceeds it for some subnormal fs (log entry 10). -/
structure Osc.InRange (o : Osc) : Prop where
  phase : F32.le F32.zero o.phase = true ∧ F32.lt o.phase F32.one = true
  inc : F32.within F32.zero o.inc F32.threeQuarters = true

/-- A rate `INIT` accepts (R407, R457). -/
def validRate (fs : F32) : Prop := F32.isFinite fs = true ∧ F32.lt F32.zero (Config.cfg.flush fs) = true

/-- The oscillators of initialised units: a valid rate, an oscillator in range, and the waveform the unit
uses (R51, R195, R235, R240, R250, R313). -/
structure OscsInRange (s : State) : Prop where
  lfo : s.lfo.init = true → validRate s.lfo.fs ∧ s.lfo.o.InRange ∧ s.lfo.o.wave ≠ .triangle
  trs : s.trs.init = true → validRate s.trs.fs ∧ s.trs.o.InRange ∧ s.trs.o.wave = .sine
  trq : s.trq.init = true → validRate s.trq.fs ∧ s.trq.o.InRange ∧ s.trq.o.wave = .rsquare
  trh : s.trh.init = true → validRate s.trh.fs ∧ s.trh.o.InRange ∧ s.trh.o.wave = .sine
  rvh : s.rvh.init = true →
    validRate s.rvh.fs ∧ s.rvh.o.InRange ∧ s.rvh.o.wave = .triangle ∧ s.rvh.o.amp = F32.one

/-- The invariant of the block. -/
structure Inv (s : State) : Prop where
  errors : ErrorRecord s
  lines : LinesCanonical s
  params : ParamsInRange s
  delay : DelayInRange s
  oscs : OscsInRange s

/-- An event that the block admits (R80, R82, R83, R97, R450). -/
def eventAdmitted (e : HostEvent) : Bool :=
  match e with
  | .access a => a.admitted
  | .concurrent _ _ => false
  | .blockReset => true

/-- A Hall whose signal memory holds only +0, as `CLEAR` leaves it (R276). -/
structure HallSilent (u : RvhUnit) : Prop where
  pre : u.pre.buf = []
  ap0 : u.ap0.buf = []
  ap1 : u.ap1.buf = []
  ln : ∀ k, (u.ln.get k).buf = []
  z : ∀ k, u.z.get k = F32.zero

/-- A Spring whose signal memory holds only +0 (R276). -/
structure SpringSilent (u : RvsUnit) : Prop where
  wg : u.wg.buf = []
  da0 : u.da0.buf = []
  da1 : u.da1.buf = []
  da2 : u.da2.buf = []
  da3 : u.da3.buf = []
  z : u.z = F32.zero

end Machine
end Sys2Proof
end

