-- ==== Sys2Proof/Certificates/Slice0/Obligations.lean ====
section
/-! DEFINITION. The statements for the provers. Each says which rules of spec/ it formalises. A result
equation `exec i s = .next …` names the whole next state, so it is the instruction's completion, its
result and its frame at once. Computations that may draw a NaN (R19) carry the draw count along: `.1` is
a result and `.2` the count after it; every statement holds for every value drawn. `s.f0` to `s.f2` are the
operands as a command reads them: under `FTZ` a subnormal one is a zero (log entry 5). -/

open Sys2Proof Sys2Proof.Machine

/-! ## Encoding -/

/-- R110, R113 to R115: the words that decode to a command are exactly the words of its encoding. -/
def Obligations.DecodeEncodeAgree : Prop :=
  ∀ (w : Word) (i : Instr), decode w = .ok i ↔ w = encode i

/-- R115, with the checks written on the word's bits. -/
def Obligations.DecodeVerdicts : Prop :=
  ∀ w : Word,
    (w.toNat / 2 ^ 12 ≠ 0 → decode w = .error .reservedBits) ∧
    (w.toNat / 2 ^ 12 = 0 → 0xA ≤ w.toNat / 2 ^ 8 → decode w = .error .badUnit) ∧
    (w.toNat / 2 ^ 12 = 0 → w.toNat / 2 ^ 8 < 0xA → (∀ i, encode i ≠ w) →
      decode w = .error .badOp) ∧
    (∀ i, encode i = w → decode w = .ok i)

/-- R114: one word of each unit, written out, and the words that R405 names. -/
def Obligations.SampleWords : Prop :=
  decode 0x00000000#32 = .ok .bqInit ∧ decode 0x00000111#32 = .ok .opSetHighpass ∧
  decode 0x00000212#32 = .ok .lfoSetWaveform ∧ decode 0x00000310#32 = .ok .dlySetDelayTime ∧
  decode 0x00000420#32 = .ok .trsGetLastLfo ∧ decode 0x00000501#32 = .ok .trqProcess ∧
  decode 0x00000611#32 = .ok .trhSetDepth ∧ decode 0x00000717#32 = .ok .rvpSetTankModDepth ∧
  decode 0x00000802#32 = .ok .rvhClear ∧ decode 0x00000918#32 = .ok .rvsSetTankModShape ∧
  decode 0x00000402#32 = .error .badOp ∧ decode 0x00000320#32 = .error .badOp

/-! ## The step and the window -/

/-- R84, R86, R403, R425: a write at `BASE` performs the decoded command, or records the decoder's verdict;
an idle block changes nothing. -/
def Obligations.StepRunsDecoded : Prop :=
  ∀ (s : State) (w : Word) (rest : List HostEvent),
    (∀ i, s.pending = busWrite Config.cfg.base w :: rest → decode w = .ok i →
      step s = exec i { s with pending := rest }) ∧
    (∀ c, s.pending = busWrite Config.cfg.base w :: rest → decode w = .error c →
      step s = .next (({ s with pending := rest } : State).raise c w)) ∧
    (s.pending = [] → step s = .next s)

/-- The model's own way to place one command (log entry 1): the next step performs it. -/
def Obligations.FetchWordRuns : Prop :=
  ∀ (s : State) (i : Instr), step (s.withFetchWord 32 (encode i).toNat) = exec i s

/-- R82, R83, R85, R97, R409: what a write does that is not to `CMD`, and what is refused. An access
outside the window is not the block's: it stops by name (log entry 6). -/
def Obligations.WindowWrites : Prop :=
  ∀ s : State,
    (∀ v, hostAccess execute ⟨.write, .w32, 0x04#32, v⟩ s = .next { s with arg0 := v }) ∧
    (∀ v, hostAccess execute ⟨.write, .w32, 0x08#32, v⟩ s = .next { s with arg1 := v }) ∧
    (∀ v, hostAccess execute ⟨.write, .w32, 0x0C#32, v⟩ s = .next { s with arg2 := v }) ∧
    (∀ v o, 4 ≤ o → o < 16 →
      hostAccess execute ⟨.write, .w32, BitVec.ofNat 32 (4 * o), v⟩ s =
        .next (s.raise .badRegister (BitVec.ofNat 32 (4 * o)))) ∧
    (∀ a : Access, a.off.toNat < 64 → a.width ≠ .w32 →
      hostAccess execute a s = .refused .accessWidth) ∧
    (∀ a : Access, a.off.toNat < 64 → a.width = .w32 → a.off.toNat % 4 ≠ 0 →
      hostAccess execute a s = .refused .misaligned) ∧
    (∀ a : Access, 64 ≤ a.off.toNat → hostAccess execute a s = .fault .outsideWindow) ∧
    (∀ a b, hostEvent execute (.concurrent a b) s = .refused .concurrentHosts)

/-- R42 to R46, R85, R86: every read of the window, which changes nothing else, and the bits of
`STATUS`. -/
def Obligations.WindowReads : Prop :=
  ∀ s : State,
    (∀ a : Access, a.kind = .read → a.admitted = true →
      ∃ v, hostAccess execute a s = .next { s with lastRead := some v } ∧
        (a.off = 0x04#32 → v = s.arg0) ∧ (a.off = 0x08#32 → v = s.arg1) ∧
        (a.off = 0x0C#32 → v = s.arg2) ∧ (a.off = 0x10#32 → v = s.res0) ∧
        (a.off = 0x14#32 → v = s.res1) ∧ (a.off = 0x18#32 → v = statusWord s) ∧
        (a.off = 0x1C#32 → v.toNat = s.cause.toNat) ∧ (a.off = 0x20#32 → v = s.errcmd) ∧
        (a.off = 0x24#32 → v = 0x464C4B01#32) ∧
        (a.off = 0x00#32 → v = 0#32) ∧ (0x28 ≤ a.off.toNat → v = 0#32)) ∧
    (statusWord s).getLsbD 0 = s.err ∧
    (∀ u : UnitId, (statusWord s).getLsbD (16 + u.code.toNat) = unitInit u s) ∧
    (∀ n, (1 ≤ n ∧ n ≤ 15) ∨ 26 ≤ n → (statusWord s).getLsbD n = false)

/-- R42, R450: the window after reset, and after a block reset from any state; no unit is initialised. -/
def Obligations.ResetWindow : Prop :=
  (∀ t : State, (t = State.reset ∨ ∃ s, t = blockReset s) →
    (∀ o, o ≠ 0x24 → memRead o t = 0#32) ∧ memRead 0x24 t = 0x464C4B01#32 ∧
    ∀ u, unitInit u t = false) ∧
  ∀ (s : State) (rest : List HostEvent), s.pending = .blockReset :: rest →
    step s = .next (blockReset { s with pending := rest })

/-! ## Errors -/

/-- R402: an error is recorded once, changes nothing else, and stays until a block reset, whatever the block
does. -/
def Obligations.ErrorRecording : Prop :=
  (∀ (s : State) (c : Cause) (w : Word), s.err = false →
    s.raise c w = { s with err := true, cause := Cause.code c, errcmd := w }) ∧
  (∀ (s : State) (c : Cause) (w : Word), s.err = true → s.raise c w = s) ∧
  (∀ s t : State, s.err = true → s.pending.head? ≠ some .blockReset → step s = .next t →
    sameErrors s t)

/-- R401, R402: the error record stays consistent; codes 7 to 255 are never written. -/
def Obligations.ErrorRecordKept : Prop :=
  ∀ s t : State, ErrorRecord s → step s = .next t → ErrorRecord t

/-- R404, R405: the three verdicts on an undefined word are recorded with the word, and nothing else
happens. -/
def Obligations.UndefinedWordsRaise : Prop :=
  ∀ (s : State) (w : Word),
    (w.toNat / 2 ^ 12 ≠ 0 → execute w s = .next (s.raise .reservedBits w)) ∧
    (w.toNat / 2 ^ 12 = 0 → 0xA ≤ w.toNat / 2 ^ 8 → execute w s = .next (s.raise .badUnit w)) ∧
    (w.toNat / 2 ^ 12 = 0 → w.toNat / 2 ^ 8 < 0xA → (∀ i, encode i ≠ w) →
      execute w s = .next (s.raise .badOp w))

/-- R403, R406 to R408: the checks of every command, in order: `NOT_INIT` first, then a non-finite operand,
then, for an `INIT`, a rate that is not above zero. -/
def Obligations.CommandChecks : Prop :=
  ∀ (s : State) (i : Instr),
    (i.op ≠ 0x00#8 → unitInit i.unit s = false →
      exec i s = .next (s.raise .notInit (encode i))) ∧
    ((i.op = 0x00#8 ∨ unitInit i.unit s = true) → operandsFinite i s = false →
      exec i s = .next (s.raise .badOperand (encode i))) ∧
    (i.op = 0x00#8 → F32.isFinite s.arg0 = true →
      Config.cfg.lt F32.zero (Config.cfg.flush s.arg0) = false →
      exec i s = .next (s.raise .badOperand (encode i)))

/-- R406: a unit becomes initialised by its `INIT` alone and stays so until a block reset. -/
def Obligations.InitLifecycle : Prop :=
  ∀ (s t : State) (u : UnitId), step s = .next t → s.pending.head? ≠ some .blockReset →
    (unitInit u s = true → unitInit u t = true) ∧
    (unitInit u s = false → unitInit u t = true →
      ∃ i rest, s.pending = cmdWrite (encode i) :: rest ∧ i.unit = u ∧ i.op = 0x00#8)

/-! ## Frames and independence -/

/-- R42, R463, R464: no command writes an operand register, and only `PROCESS` and `GET_LAST_LFO` write the
result registers. -/
def Obligations.CommandFrame : Prop :=
  ∀ (i : Instr) (s t : State), exec i s = .next t →
    sameInputs s t ∧ (producesResult i = false → s.res0 = t.res0 ∧ s.res1 = t.res1) ∧
    (Passes i s → (i.op ≠ 0x00#8 ∨ Config.cfg.lt F32.zero s.f0 = true) → sameErrors s t)

/-- R48, R469: a command never changes another unit's state. -/
def Obligations.UnitsIndependent : Prop :=
  ∀ (i : Instr) (s t : State) (u : UnitId), exec i s = .next t → u ≠ i.unit → sameUnit u s t

/-- R48, R469: what a command does to its unit and reports depends on its operands and its own unit alone
(and on the draws of R19), never on another unit. -/
def Obligations.UnitResultsLocal : Prop :=
  ∀ (i : Instr) (s s' t : State),
    s.arg0 = s'.arg0 → s.arg1 = s'.arg1 → s.arg2 = s'.arg2 → s.draws = s'.draws →
    sameUnit i.unit s s' → exec i s = .next t →
    ∃ t', exec i s' = .next t' ∧ sameUnit i.unit t t' ∧ t.draws = t'.draws ∧
      (s.res0 = s'.res0 → s.res1 = s'.res1 → t.res0 = t'.res0 ∧ t.res1 = t'.res1)

/-- R80, R92: sample memory changes only where a line is written. `PROCESS` stores one sample in each line of
its unit, at the line's write index; `INIT` and `CLEAR` zero their unit's lines; every other command
leaves every sample of every line as it was. -/
def Obligations.SampleMemoryFrame : Prop :=
  ∀ (i : Instr) (s t : State), exec i s = .next t →
    (∀ j, (i ≠ .dlyInit ∧ i ≠ .dlyClear) →
      (i = .dlyProcess → j ≠ s.dly.lineL.w) →
      Memory.read t.dly.lineL.buf j = Memory.read s.dly.lineL.buf j) ∧
    (∀ j, (i ≠ .dlyInit ∧ i ≠ .dlyClear) →
      (i = .dlyProcess → j ≠ s.dly.lineR.w) →
      Memory.read t.dly.lineR.buf j = Memory.read s.dly.lineR.buf j) ∧
    (∀ j, (i ≠ .rvhInit ∧ i ≠ .rvhClear) →
      ((i = .rvhProcess → j ≠ s.rvh.pre.w) →
        Memory.read t.rvh.pre.buf j = Memory.read s.rvh.pre.buf j) ∧
      ((i = .rvhProcess → j ≠ s.rvh.ap0.w) →
        Memory.read t.rvh.ap0.buf j = Memory.read s.rvh.ap0.buf j) ∧
      ((i = .rvhProcess → j ≠ s.rvh.ap1.w) →
        Memory.read t.rvh.ap1.buf j = Memory.read s.rvh.ap1.buf j) ∧
      ∀ k, (i = .rvhProcess → j ≠ (s.rvh.ln.get k).w) →
        Memory.read (t.rvh.ln.get k).buf j = Memory.read (s.rvh.ln.get k).buf j) ∧
    (∀ j, (i ≠ .rvsInit ∧ i ≠ .rvsClear) →
      ((i = .rvsProcess → j ≠ s.rvs.wg.w) →
        Memory.read t.rvs.wg.buf j = Memory.read s.rvs.wg.buf j) ∧
      ((i = .rvsProcess → j ≠ s.rvs.da0.w) →
        Memory.read t.rvs.da0.buf j = Memory.read s.rvs.da0.buf j) ∧
      ((i = .rvsProcess → j ≠ s.rvs.da1.w) →
        Memory.read t.rvs.da1.buf j = Memory.read s.rvs.da1.buf j) ∧
      ((i = .rvsProcess → j ≠ s.rvs.da2.w) →
        Memory.read t.rvs.da2.buf j = Memory.read s.rvs.da2.buf j) ∧
      ((i = .rvsProcess → j ≠ s.rvs.da3.w) →
        Memory.read t.rvs.da3.buf j = Memory.read s.rvs.da3.buf j))

/-! ## INIT -/

/-- R452, R457: every `INIT` with a finite rate above zero completes; it initialises its unit at that rate
and leaves the other units, the error record, the operands and the results. -/
def Obligations.InitCompletes : Prop :=
  ∀ (i : Instr) (s : State), i.op = 0x00#8 → F32.isFinite s.arg0 = true →
    Config.cfg.lt F32.zero s.f0 = true →
    ∃ t, exec i s = .next t ∧ unitInit i.unit t = true ∧ unitFs i.unit t = s.f0 ∧
      sameErrors s t ∧ sameInputs s t ∧ s.res0 = t.res0 ∧ s.res1 = t.res1 ∧
      ∀ u, u ≠ i.unit → sameUnit u s t

/-- R452, R453: an `INIT` discards the unit's whole state: what it leaves does not depend on it. -/
def Obligations.InitDiscardsState : Prop :=
  ∀ (i : Instr) (s s' : State), i.op = 0x00#8 → F32.isFinite s.arg0 = true →
    Config.cfg.lt F32.zero s.f0 = true → s.arg0 = s'.arg0 → s.draws = s'.draws →
    ∃ t t', exec i s = .next t ∧ exec i s' = .next t' ∧ sameUnit i.unit t t' ∧
      t.draws = t'.draws

/-- R49 to R51, R150, R160, R190: the state after `INIT` of BQ, OP and LFO. -/
def Obligations.InitFiltersLfo : Prop :=
  ∀ s : State, F32.isFinite s.arg0 = true → Config.cfg.lt F32.zero s.f0 = true →
    exec .bqInit s = .next
      { s with
        bq := { init := true, fs := s.f0, h := ⟨0#32, 0#32, 0#32, 0#32⟩,
                c := ⟨0x3F800000#32, 0#32, 0#32, 0#32, 0#32⟩ } } ∧
    exec .opInit s = .next
      { s with op := { init := true, fs := s.f0, mode := .lp, a := 0x3F800000#32, y := 0#32 } } ∧
    exec .lfoInit s = .next
      { s with
        lfo := { init := true, fs := s.f0,
                 o := { phase := 0#32, freq := 0#32, inc := 0#32, amp := 0x3F800000#32,
                        wave := .sine, eoc := false, eorh := false } } }

/-- R200: the state after `DLY.INIT`. -/
def Obligations.InitDelay : Prop :=
  ∀ s : State, F32.isFinite s.arg0 = true → Config.cfg.lt F32.zero s.f0 = true →
    ∃ m dlo dt : F32,
      (Config.cfg.mul Config.cfg.delayTimeMinSeconds s.f0).Gives s.draws m ∧
      (Config.cfg.clamp m F32.one (F32.ofNat Config.cfg.maxDelaySamples)).Gives s.draws dlo ∧
      (Config.cfg.clamp Config.cfg.defDlyTime dlo
        (F32.ofNat Config.cfg.maxDelaySamples)).Gives s.draws dt ∧
      F32.within F32.one dlo (F32.ofNat Config.cfg.maxDelaySamples) = true ∧
      F32.within dlo dt (F32.ofNat Config.cfg.maxDelaySamples) = true ∧
      exec .dlyInit s = .next
        { s with
          dly := { init := true, fs := s.f0, lineL := ⟨[], 0⟩, lineR := ⟨[], 0⟩, dt := dt, dc := dt,
                   fb := F32.unitClamped (Config.cfg.flush Config.cfg.defDlyFeedback),
                   dmax := F32.ofNat Config.cfg.maxDelaySamples, dlo := dlo } }

/-- R231, R233, R235, R240, R249, R250: the state after `INIT` of the tremolos: phase 0, the default speed
and depth through their setters' clamps, no last value; and for TRH the seven filters' coefficients, each
from its own cutoff (144 Hz and 636 Hz for the band split) or its own band, and every filter memory zero. -/
def Obligations.InitTremolos : Prop :=
  ∀ s : State, F32.isFinite s.arg0 = true → Config.cfg.lt F32.zero s.f0 = true →
    let c := Config.cfg
    let cutoff := fun (fc : F32) (n : Nat) =>
      let hi := c.mul c.opFcMaxFrac s.f0 n
      let fc' := c.clamp fc c.opFcMin hi.1 hi.2
      let t := c.mul 0x40C90FDB#32 fc'.1 fc'.2
      let t' := c.div t.1 s.f0 t.2
      c.sub 0x3F800000#32 (c.exp (F32.neg t'.1)) t'.2
    let band := fun (design : Cfg → F32 → F32 → F32 → F32 → Dp BqCoef) (b : EqBand) (n : Nat) =>
      let hi := c.mul c.bqFcMaxFrac s.f0 n
      let fc := c.clamp b.fc c.bqFcMin hi.1 hi.2
      let q := c.clamp b.q c.bqQMin c.bqQMax fc.2
      let g := c.clamp b.gainDb c.bqGainMinDb c.bqGainMaxDb q.2
      design c fc.1 q.1 g.1 s.f0 g.2
    let aLo := cutoff 0x43100000#32 s.draws
    let aHi := cutoff 0x441F0000#32 aLo.2
    let aEqhp := cutoff c.trhEqHpFc aHi.2
    let aEqlp := cutoff c.trhEqLpFc aEqhp.2
    let ls := band shelfDesign c.trhEqLs aEqlp.2
    let pk1 := band peakDesign c.trhEqPk1 ls.2
    let pk2 := band peakDesign c.trhEqPk2 pk1.2
    ∃ (hi f inc a5 a125 : F32) (depth : F32),
      (Config.cfg.mul s.f0 F32.half).Gives s.draws hi ∧
      (Config.cfg.clamp Config.cfg.defTrmSpeed F32.zero hi).Gives s.draws f ∧
      (Config.cfg.div f s.f0).Gives s.draws inc ∧
      depth = F32.unitClamped (Config.cfg.flush Config.cfg.defTrmDepth) ∧
      (Config.cfg.mul depth F32.half).Gives s.draws a5 ∧
      (Config.cfg.mul depth Config.trhDepthScale).Gives s.draws a125 ∧
      exec .trsInit s = .next
        { s with trs := ⟨true, s.f0, ⟨0#32, f, inc, a5, .sine, false, false⟩, depth, 0#32⟩ } ∧
      exec .trqInit s = .next
        { s with trq := ⟨true, s.f0, ⟨0#32, f, inc, a5, .rsquare, false, false⟩, depth, 0#32⟩ } ∧
      exec .trhInit s = .next
        { s with
          trh := { init := true, fs := s.f0, o := ⟨0#32, f, inc, a125, .sine, false, false⟩,
                   depth := depth, last := 0#32,
                   k := { aLo := aLo.1, aHi := aHi.1, aEqhp := aEqhp.1, aEqlp := aEqlp.1,
                          ls := ls.1, pk1 := pk1.1, pk2 := pk2.1 },
                   chL := TrhChan.zero, chR := TrhChan.zero },
          draws := pk2.2 }

/-- R272, R273, R290, R312, R330, R354, R360: the state after `INIT` of the reverbs: the nine defaults
through their setters' clamps, every line and filter state zero, and what each algorithm derives. -/
def Obligations.InitReverbs : Prop :=
  ∀ s : State, F32.isFinite s.arg0 = true → Config.cfg.lt F32.zero s.f0 = true →
    ∃ (p : RvParams) (q hi f inc g : F32),
      p = { mix := F32.unitClamped (Config.cfg.flush Config.cfg.defRvMix),
            decay := F32.unitClamped (Config.cfg.flush Config.cfg.defRvDecay),
            diffusion := F32.unitClamped (Config.cfg.flush Config.cfg.defRvDiffusion),
            predelay := F32.unitClamped (Config.cfg.flush Config.cfg.defRvPredelay),
            inhc := F32.unitClamped (Config.cfg.flush Config.cfg.defRvInputHc),
            tankhc := F32.unitClamped (Config.cfg.flush Config.cfg.defRvTankHc),
            spos := posMap Config.cfg.defRvModSpeedPos,
            dpos := posMap Config.cfg.defRvModDepthPos,
            shpos := posMap Config.cfg.defRvModShapePos } ∧
      (Config.cfg.mul p.predelay (F32.ofNat Config.cfg.rvhPredelayMax)).Gives s.draws q ∧
      (Config.cfg.mul s.f0 F32.half).Gives s.draws hi ∧
      (Config.cfg.clamp (Config.cfg.rvhSpeedTable p.spos) F32.zero hi).Gives s.draws f ∧
      (Config.cfg.div f s.f0).Gives s.draws inc ∧
      (Config.cfg.clamp p.decay F32.zero Config.cfg.rvsDecayMax).Gives s.draws g ∧
      exec .rvpInit s = .next
        { s with
          rvp := { init := true, fs := s.f0, p := p,
                   sigma := Config.cfg.plate.apply (Config.cfg.plate.init s.f0)
                     (platePP Config.cfg p) } } ∧
      exec .rvhInit s = .next
        { s with
          rvh := { init := true, fs := s.f0, p := p, pre := ⟨[], 0⟩, pd := F32.roundEvenNat q,
                   ap0 := ⟨[], 0⟩, ap1 := ⟨[], 0⟩, ln := Eight.all ⟨[], 0⟩, z := Eight.all 0#32,
                   g := Config.cfg.rvhDecayMap p.decay, ad := Config.cfg.rvhHcMap p.tankhc,
                   o := ⟨0#32, f, inc, 0x3F800000#32, .triangle, false, false⟩ } } ∧
      exec .rvsInit s = .next
        { s with
          rvs := { init := true, fs := s.f0, p := p, wg := ⟨[], 0⟩, da0 := ⟨[], 0⟩,
                   da1 := ⟨[], 0⟩, da2 := ⟨[], 0⟩, da3 := ⟨[], 0⟩, z := 0#32, g := g } }

/-! ## PROCESS -/

/-- R141 to R143, R151, R161: `BQ.PROCESS` and `OP.PROCESS`, one rounded operation at a time. -/
def Obligations.FilterProcess : Prop :=
  (∀ s : State, s.bq.init = true → F32.isFinite s.arg0 = true →
    let c := Config.cfg
    let p0 := c.mul s.bq.c.b0 s.f0 s.draws
    let p1 := c.mul s.bq.c.b1 s.bq.h.x1 p0.2
    let a1 := c.add p0.1 p1.1 p1.2
    let p2 := c.mul s.bq.c.b2 s.bq.h.x2 a1.2
    let a2 := c.add a1.1 p2.1 p2.2
    let p3 := c.mul s.bq.c.a1 s.bq.h.y1 a2.2
    let a3 := c.sub a2.1 p3.1 p3.2
    let p4 := c.mul s.bq.c.a2 s.bq.h.y2 a3.2
    let y := c.sub a3.1 p4.1 p4.2
    exec .bqProcess s = .next
      { s with
        bq := { s.bq with h := { x1 := s.f0, x2 := s.bq.h.x1, y1 := y.1, y2 := s.bq.h.y1 } },
        res0 := y.1, res1 := 0#32, draws := y.2 }) ∧
  (∀ s : State, s.op.init = true → F32.isFinite s.arg0 = true →
    let c := Config.cfg
    let d := c.sub s.f0 s.op.y s.draws
    let p := c.mul s.op.a d.1 d.2
    let y := c.add s.op.y p.1 p.2
    (s.op.mode = .lp → exec .opProcess s = .next
      { s with op := { s.op with y := y.1 }, res0 := y.1, res1 := 0#32, draws := y.2 }) ∧
    (s.op.mode = .hp → exec .opProcess s = .next
      { s with
        op := { s.op with y := y.1 }, res0 := (c.sub s.f0 y.1 y.2).1, res1 := 0#32,
        draws := (c.sub s.f0 y.1 y.2).2 }))

/-- R180 to R184, R186, R191: the three shapes and the oscillator's step, one rounded operation at a time;
and `LFO.PROCESS`: the output from the phase before the advance, and the flags of this step in `RES1`. That
`RSQ_K` goes to `ATAN` unflushed under `FTZ` is the model's choice (log entry 19). -/
def Obligations.LfoProcess : Prop :=
  (∀ (c : Cfg) (φ : F32) (k : Nat),
    let x := c.mul 0x40C90FDB#32 φ k
    let y := c.mul c.rsqK (c.sin x.1) x.2
    let d := c.sub φ 0x3F000000#32 k
    let t := c.mul 0x40800000#32 (d.1 &&& 0x7FFFFFFF#32) d.2
    shape c .sine φ k = (c.sin x.1, x.2) ∧
    shape c .rsquare φ k = c.div (c.atan y.1) (c.atan c.rsqK) y.2 ∧
    shape c .triangle φ k = c.sub 0x3F800000#32 t.1 t.2) ∧
  (∀ (c : Cfg) (o : Osc) (k : Nat),
    let sh := shape c o.wave o.phase k
    let out := c.mul o.amp sh.1 sh.2
    let t := c.add o.phase o.inc out.2
    let eorh := c.lt o.phase F32.half && c.le F32.half t.1
    let p := c.sub t.1 F32.one t.2
    oscStep c o k =
      if c.le F32.one t.1 then
        ((out.1, { o with phase := p.1, eoc := true, eorh := eorh }), p.2)
      else ((out.1, { o with phase := t.1, eoc := false, eorh := eorh }), t.2)) ∧
  ∀ s : State, s.lfo.init = true →
    let c := Config.cfg
    let o := s.lfo.o
    let sh := shape c o.wave o.phase s.draws
    let out := c.mul o.amp sh.1 sh.2
    let t := c.add o.phase o.inc out.2
    let eorh := c.lt o.phase F32.half && c.le F32.half t.1
    let p := c.sub t.1 F32.one t.2
    let eoc := c.le F32.one t.1
    exec .lfoProcess s = .next
      { s with
        lfo := { s.lfo with
          o := { o with phase := if eoc then p.1 else t.1, eoc := eoc, eorh := eorh } },
        res0 := out.1,
        res1 := (if eoc then 1#32 else 0#32) + (if eorh then 2#32 else 0#32),
        draws := if eoc then p.2 else t.2 }

/-- R201, R202: `DLY.PROCESS`, where the read delay lies in the range of R91. -/
def Obligations.DlyProcess : Prop :=
  ∀ s : State, s.dly.init = true → F32.isFinite s.arg0 = true → F32.isFinite s.arg1 = true →
    let c := Config.cfg
    let u := s.dly
    let d := c.sub u.dt u.dc s.draws
    let p := c.mul c.dlySmooth d.1 d.2
    let dc := c.add u.dc p.1 p.2
    let D := c.clamp dc.1 F32.one u.dmax dc.2
    let rL := lineRead c (c.maxDelaySamples + 2) u.lineL D.1 D.2
    let rR := lineRead c (c.maxDelaySamples + 2) u.lineR D.1 rL.2
    let qL := c.mul u.fb rL.1 rR.2
    let vL := c.add s.f0 qL.1 qL.2
    let qR := c.mul u.fb rR.1 vL.2
    let vR := c.add s.f1 qR.1 qR.2
    lineReadable (c.maxDelaySamples + 2) D.1 = true →
    exec .dlyProcess s = .next
      { s with
        dly := { u with
          dc := dc.1,
          lineL := ⟨Memory.write u.lineL.buf u.lineL.w vL.1,
            (u.lineL.w + 1) % (c.maxDelaySamples + 2)⟩,
          lineR := ⟨Memory.write u.lineR.buf u.lineR.w vR.1,
            (u.lineR.w + 1) % (c.maxDelaySamples + 2)⟩ },
        res0 := rL.1, res1 := rR.1, draws := vR.2 }

/-- R236, R241, R233, R239, R244: `PROCESS` and `GET_LAST_LFO` of TRS and TRQ. -/
def Obligations.TremoloProcess : Prop :=
  (∀ s : State, s.trs.init = true →
    exec .trsGetLastLfo s = .next { s with res0 := s.trs.last, res1 := 0#32 }) ∧
  (∀ s : State, s.trq.init = true →
    exec .trqGetLastLfo s = .next { s with res0 := s.trq.last, res1 := 0#32 }) ∧
  (∀ s : State, s.trs.init = true → F32.isFinite s.arg0 = true → F32.isFinite s.arg1 = true →
    let c := Config.cfg
    let lfo := oscStep c s.trs.o s.draws
    let t := c.mul s.trs.depth F32.half lfo.2
    let b := c.sub F32.one t.1 t.2
    let g := c.add b.1 lfo.1.1 b.2
    let l := c.mul s.f0 g.1 g.2
    let r := c.mul s.f1 g.1 l.2
    exec .trsProcess s = .next
      { s with
        trs := { s.trs with o := lfo.1.2, last := lfo.1.1 }, res0 := l.1, res1 := r.1,
        draws := r.2 }) ∧
  (∀ s : State, s.trq.init = true → F32.isFinite s.arg0 = true → F32.isFinite s.arg1 = true →
    let c := Config.cfg
    let lfo := oscStep c s.trq.o s.draws
    let t := c.mul s.trq.depth F32.half lfo.2
    let b := c.sub F32.one t.1 t.2
    let g := c.add b.1 lfo.1.1 b.2
    let l := c.mul s.f0 g.1 g.2
    let r := c.mul s.f1 g.1 l.2
    exec .trqProcess s = .next
      { s with
        trq := { s.trq with o := lfo.1.2, last := lfo.1.1 }, res0 := l.1, res1 := r.1,
        draws := r.2 })

/-- R246 to R248, R251, R254: `TRH.PROCESS` and `TRH.GET_LAST_LFO`. The statement names one channel's
computation once and uses it for both. -/
def Obligations.TrhProcess : Prop :=
  (∀ s : State, s.trh.init = true →
    exec .trhGetLastLfo s = .next { s with res0 := s.trh.last, res1 := 0#32 }) ∧
  (∀ s : State, s.trh.init = true → F32.isFinite s.arg0 = true → F32.isFinite s.arg1 = true →
    let c := Config.cfg
    let k := s.trh.k
    let channel := fun (lfo : F32) (ch : TrhChan) (x : F32) (n : Nat) =>
      let lo := lp1 c ch.lo k.aLo x n
      let hi := hp1 c ch.hi k.aHi x lo.2
      let gp := c.add F32.one lfo hi.2
      let gm := c.sub F32.one lfo gp.2
      let a := c.mul lo.1 gp.1 gm.2
      let b := c.mul hi.1.1 gm.1 a.2
      let m := c.add a.1 b.1 b.2
      let e1 := hp1 c ch.eqhp k.aEqhp m.1 m.2
      let e2 := lp1 c ch.eqlp k.aEqlp e1.1.1 e1.2
      let e3 := bq2 c k.ls ch.eqls e2.1 e2.2
      let e4 := bq2 c k.pk1 ch.eqpk1 e3.1.1 e3.2
      let y := bq2 c k.pk2 ch.eqpk2 e4.1.1 e4.2
      ((y.1.1, ({ lo := lo.1, hi := hi.1.2, eqhp := e1.1.2, eqlp := e2.1, eqls := e3.1.2,
                  eqpk1 := e4.1.2, eqpk2 := y.1.2 } : TrhChan)), y.2)
    let lfo := oscStep c s.trh.o s.draws
    let l := channel lfo.1.1 s.trh.chL s.f0 lfo.2
    let r := channel lfo.1.1 s.trh.chR s.f1 l.2
    exec .trhProcess s = .next
      { s with
        trh := { s.trh with o := lfo.1.2, last := lfo.1.1, chL := l.1.2, chR := r.1.2 },
        res0 := l.1.1, res1 := r.1.1, draws := r.2 })

/-- R283, R291: `RVP.PROCESS`: one call of `PLATE.step`, then the mix law. -/
def Obligations.RvpProcess : Prop :=
  ∀ s : State, s.rvp.init = true → F32.isFinite s.arg0 = true → F32.isFinite s.arg1 = true →
    let c := Config.cfg
    let w := c.plate.step s.rvp.sigma s.f0 s.f1
    let l := mixLaw c s.rvp.p.mix s.f0 w.2.1 s.draws
    let r := mixLaw c s.rvp.p.mix s.f1 w.2.2 l.2
    exec .rvpProcess s = .next
      { s with rvp := { s.rvp with sigma := w.1 }, res0 := l.1, res1 := r.1, draws := r.2 }

/-- R275, R310 to R316, R318 to R320, R331: `RVH.PROCESS`, where the reads lie in the range of R91: the mono
input, the delay times and the taps one rounded operation at a time. -/
def Obligations.RvhProcess : Prop :=
  ∀ s : State, s.rvh.init = true → F32.isFinite s.arg0 = true → F32.isFinite s.arg1 = true →
    let c := Config.cfg
    let u := s.rvh
    let len := fun k => c.rvhLen k + c.rvhModMax + 2
    let sum := c.add s.f0 s.f1 s.draws
    let x := c.mul sum.1 0x3F000000#32 sum.2
    let p := if u.pd = 0 then x.1 else u.pre.hist (c.rvhPredelayMax + 1) u.pd
    let a := allpass c (c.rvhApLen 0) u.ap0 (c.rvhApCoef 0) p x.2
    let v := allpass c (c.rvhApLen 1) u.ap1 (c.rvhApCoef 1) a.1.1 a.2
    let tri := oscStep c u.o v.2
    let ds := eightDp (fun k =>
      if c.rvhModMask.getLsbD k.val = true then do
        let e ← c.mul (c.rvhDepthTable u.p.dpos) tri.1.1
        c.add (F32.ofNat (c.rvhLen k)) e
      else pure (F32.ofNat (c.rvhLen k))) tri.2
    let yf := eightDp (fun k => do
      let y ← lineRead c (len k) (u.ln.get k) (ds.1.get k)
      let f ← lp1 c (u.z.get k) u.ad y
      pure (y, f)) ds.2
    let f := Eight.make fun k => (yf.1.get k).2
    let m := had8 c f yf.2
    let ln := eightDp (fun k => do
      let r ← c.mul u.g (m.1.get k)
      let b ← c.add v.1.1 r
      pure ((u.ln.get k).push (len k) b)) m.2
    let y := fun k => (yf.1.get k).1
    let tap := fun (p q r s : F32) (n : Nat) =>
      let t := c.sub p q n
      let t' := c.add t.1 r t.2
      let t'' := c.sub t'.1 s t'.2
      c.mul t''.1 c.rvhOutGain t''.2
    let wetL := tap (y 0) (y 2) (y 4) (y 6) ln.2
    let wetR := tap (y 1) (y 3) (y 5) (y 7) wetL.2
    let outL := mixLaw c u.p.mix s.f0 wetL.1 wetR.2
    let outR := mixLaw c u.p.mix s.f1 wetR.1 outL.2
    u.pd ≤ c.rvhPredelayMax →
    (∀ k, lineReadable (len k) (ds.1.get k) = true) →
    exec .rvhProcess s = .next
      { s with
        rvh := { u with
          pre := u.pre.push (c.rvhPredelayMax + 1) x.1, ap0 := a.1.2, ap1 := v.1.2, ln := ln.1,
          z := f, o := tri.1.2 },
        res0 := outL.1, res1 := outR.1, draws := outR.2 }

/-- R275, R350 to R355, R361: `RVS.PROCESS`. -/
def Obligations.RvsProcess : Prop :=
  ∀ s : State, s.rvs.init = true → F32.isFinite s.arg0 = true → F32.isFinite s.arg1 = true →
    let c := Config.cfg
    let u := s.rvs
    let sum := c.add s.f0 s.f1 s.draws
    let x := c.mul sum.1 0x3F000000#32 sum.2
    let e := c.mul c.rvsDrive x.1 x.2
    let v0 := allpass c (c.rvsApLen 0) u.da0 (c.rvsApCoef 0) (c.tanh e.1) e.2
    let v1 := allpass c (c.rvsApLen 1) u.da1 (c.rvsApCoef 1) v0.1.1 v0.2
    let v2 := allpass c (c.rvsApLen 2) u.da2 (c.rvsApCoef 2) v1.1.1 v1.2
    let v := allpass c (c.rvsApLen 3) u.da3 (c.rvsApCoef 3) v2.1.1 v2.2
    let y := u.wg.hist (c.rvsLen + 1) c.rvsLen
    let zf := lp1 c u.z c.rvsDampCoef y v.2
    let r := c.mul u.g zf.1 zf.2
    let b := c.add v.1.1 r.1 r.2
    let a1 := c.mul (c.rvsTapGain 0) (u.wg.hist (c.rvsLen + 1) (c.rvsTap 0)) b.2
    let s1 := c.add y a1.1 a1.2
    let a2 := c.mul (c.rvsTapGain 1) (u.wg.hist (c.rvsLen + 1) (c.rvsTap 1)) s1.2
    let s2 := c.add s1.1 a2.1 a2.2
    let wet := c.mul s2.1 c.rvsOutGain s2.2
    let outL := mixLaw c u.p.mix s.f0 wet.1 wet.2
    let outR := mixLaw c u.p.mix s.f1 wet.1 outL.2
    exec .rvsProcess s = .next
      { s with
        rvs := { u with
          wg := u.wg.push (c.rvsLen + 1) b.1, da0 := v0.1.2, da1 := v1.1.2, da2 := v2.1.2,
          da3 := v.1.2, z := zf.1 },
        res0 := outL.1, res1 := outR.1, draws := outR.2 }

/-! ## CLEAR -/

/-- R152, R162, R192, R203, R292, R332, R362: every `CLEAR`, and all that it keeps. -/
def Obligations.ClearResults : Prop :=
  ∀ s : State,
    (s.bq.init = true → exec .bqClear s =
      .next { s with bq := { s.bq with h := ⟨0#32, 0#32, 0#32, 0#32⟩ } }) ∧
    (s.op.init = true → exec .opClear s = .next { s with op := { s.op with y := 0#32 } }) ∧
    (s.lfo.init = true → exec .lfoClear s = .next
      { s with
        lfo := { s.lfo with
          o := { s.lfo.o with phase := 0#32, eoc := false, eorh := false } } }) ∧
    (s.dly.init = true → exec .dlyClear s =
      .next { s with dly := { s.dly with lineL := ⟨[], 0⟩, lineR := ⟨[], 0⟩ } }) ∧
    (s.rvp.init = true → exec .rvpClear s =
      .next { s with rvp := { s.rvp with sigma := Config.cfg.plate.clear s.rvp.sigma } }) ∧
    (s.rvh.init = true → exec .rvhClear s = .next
      { s with
        rvh := { s.rvh with
          pre := ⟨[], 0⟩, ap0 := ⟨[], 0⟩, ap1 := ⟨[], 0⟩, ln := Eight.all ⟨[], 0⟩,
          z := Eight.all 0#32 } }) ∧
    (s.rvs.init = true → exec .rvsClear s = .next
      { s with
        rvs := { s.rvs with
          wg := ⟨[], 0⟩, da0 := ⟨[], 0⟩, da1 := ⟨[], 0⟩, da2 := ⟨[], 0⟩, da3 := ⟨[], 0⟩,
          z := 0#32 } })

/-- R93, R276, R307: a second `CLEAR` changes nothing, on any unit that has one. -/
def Obligations.ClearIdempotent : Prop :=
  ∀ (i : Instr) (s t : State), i.op = 0x02#8 → unitInit i.unit s = true → exec i s = .next t →
    exec i t = .next t

/-- R276, R331, R332: after `RVH.CLEAR`, zero input (of sign +: log entry 20) gives zero output, and the signal
memory stays +0, so that the next zero input does too. -/
def Obligations.HallSilence : Prop :=
  ∀ s : State, Inv s → s.rvh.init = true → HallSilent s.rvh → s.arg0 = 0#32 → s.arg1 = 0#32 →
    ∃ t, exec .rvhProcess s = .next t ∧ F32.isZero t.res0 = true ∧ F32.isZero t.res1 = true ∧
      HallSilent t.rvh ∧ t.draws = s.draws

/-- R276, R361, R362: the same of the Spring (zero input of sign +: log entry 20), on any configuration, under
the hypothesis that `TANH(+0)` is +0. -/
def Obligations.SpringSilence : Prop :=
  ∀ (c : Cfg) (u : RvsUnit) (k : Nat), SpringSilent u → F32.inUnit u.p.mix = true →
    F32.within F32.zero u.g c.rvsDecayMax = true → c.tanh 0#32 = 0#32 →
    ∃ (u' : RvsUnit) (l r : F32), (rvsStep c u 0#32 0#32).Gives k (u', l, r) ∧
      F32.isZero l = true ∧ F32.isZero r = true ∧ SpringSilent u' ∧ u'.p = u.p ∧ u'.g = u.g

/-! ## Setters -/

/-- R140, R144 to R148, R153, R154, R163, R164: the two biquad designs, one rounded operation at a time; and
the design setters of BQ and OP: the clamps, the design, and the history kept. -/
def Obligations.FilterSetters : Prop :=
  (∀ (c : Cfg) (fc q gdb fs : F32) (k : Nat),
    let e := c.div gdb 0x42200000#32 k
    let A := c.pow10 e.1
    let w := c.mul 0x40C90FDB#32 fc e.2
    let w0 := c.div w.1 fs w.2
    let cw := c.cos w0.1
    let sw := c.sin w0.1
    let q2 := c.mul 0x40000000#32 q w0.2
    let alpha := c.div sw q2.1 q2.2
    let norm := fun (b0 b1 b2 a0 a1 a2 : F32) (n : Nat) =>
      let n0 := c.div b0 a0 n
      let n1 := c.div b1 a0 n0.2
      let n2 := c.div b2 a0 n1.2
      let m1 := c.div a1 a0 n2.2
      let m2 := c.div a2 a0 m1.2
      (({ b0 := n0.1, b1 := n1.1, b2 := n2.1, a1 := m1.1, a2 := m2.1 } : BqCoef), m2.2)
    let peak :=
      let p0 := c.mul alpha.1 A alpha.2
      let b0 := c.add 0x3F800000#32 p0.1 p0.2
      let b1 := c.mul 0xC0000000#32 cw b0.2
      let p2 := c.mul alpha.1 A b1.2
      let b2 := c.sub 0x3F800000#32 p2.1 p2.2
      let r0 := c.div alpha.1 A b2.2
      let a0 := c.add 0x3F800000#32 r0.1 r0.2
      let a1 := c.mul 0xC0000000#32 cw a0.2
      let r2 := c.div alpha.1 A a1.2
      let a2 := c.sub 0x3F800000#32 r2.1 r2.2
      norm b0.1 b1.1 b2.1 a0.1 a1.1 a2.1 a2.2
    let shelf :=
      let sa := c.sqrt A alpha.2
      let h := c.mul 0x40000000#32 sa.1 sa.2
      let beta := c.mul h.1 alpha.1 h.2
      let ap1 := c.add A 0x3F800000#32 beta.2
      let am1 := c.sub A 0x3F800000#32 ap1.2
      let p0 := c.mul am1.1 cw am1.2
      let d0 := c.sub ap1.1 p0.1 p0.2
      let s0 := c.add d0.1 beta.1 d0.2
      let b0 := c.mul A s0.1 s0.2
      let twoA := c.mul 0x40000000#32 A b0.2
      let p1 := c.mul ap1.1 cw twoA.2
      let d1 := c.sub am1.1 p1.1 p1.2
      let b1 := c.mul twoA.1 d1.1 d1.2
      let p2 := c.mul am1.1 cw b1.2
      let d2 := c.sub ap1.1 p2.1 p2.2
      let s2 := c.sub d2.1 beta.1 d2.2
      let b2 := c.mul A s2.1 s2.2
      let p3 := c.mul am1.1 cw b2.2
      let d3 := c.add ap1.1 p3.1 p3.2
      let a0 := c.add d3.1 beta.1 d3.2
      let p4 := c.mul ap1.1 cw a0.2
      let d4 := c.add am1.1 p4.1 p4.2
      let a1 := c.mul 0xC0000000#32 d4.1 d4.2
      let p5 := c.mul am1.1 cw a1.2
      let d5 := c.add ap1.1 p5.1 p5.2
      let a2 := c.sub d5.1 beta.1 d5.2
      norm b0.1 b1.1 b2.1 a0.1 a1.1 a2.1 a2.2
    bqPre c fc q gdb fs k = ((A, cw, sw, alpha.1), alpha.2) ∧
    peakDesign c fc q gdb fs k = peak ∧ shelfDesign c fc q gdb fs k = shelf) ∧
  (∀ s : State, s.bq.init = true → F32.isFinite s.arg0 = true → F32.isFinite s.arg1 = true →
    F32.isFinite s.arg2 = true →
    let c := Config.cfg
    let hi := c.mul c.bqFcMaxFrac s.bq.fs s.draws
    let fc := c.clamp s.f0 c.bqFcMin hi.1 hi.2
    let q := c.clamp s.f1 c.bqQMin c.bqQMax fc.2
    let g := c.clamp s.f2 c.bqGainMinDb c.bqGainMaxDb q.2
    let pk := peakDesign c fc.1 q.1 g.1 s.bq.fs g.2
    let ls := shelfDesign c fc.1 q.1 g.1 s.bq.fs g.2
    exec .bqSetPeaking s = .next { s with bq := { s.bq with c := pk.1 }, draws := pk.2 } ∧
    exec .bqSetLowshelf s = .next { s with bq := { s.bq with c := ls.1 }, draws := ls.2 }) ∧
  (∀ s : State, s.op.init = true → F32.isFinite s.arg0 = true →
    let c := Config.cfg
    let hi := c.mul c.opFcMaxFrac s.op.fs s.draws
    let fc := c.clamp s.f0 c.opFcMin hi.1 hi.2
    let t := c.mul F32.twoPi fc.1 fc.2
    let t' := c.div t.1 s.op.fs t.2
    let a := c.sub F32.one (c.exp (F32.neg t'.1)) t'.2
    exec .opSetLowpass s =
      .next { s with op := { s.op with mode := .lp, a := a.1 }, draws := a.2 } ∧
    exec .opSetHighpass s =
      .next { s with op := { s.op with mode := .hp, a := a.1 }, draws := a.2 })

/-- R144 to R147, R153, R154: a 0 dB design is the identity section whenever `POW10(0)` is 1: b0 is 1, b1 is
a1 and b2 is a2. The spec leaves SIN and COS open (R20), so the hypotheses say that the design's own
values are finite and that A0 is not zero. Where the cosine is zero, the pseudocode of the low shelf gives
b1 and a1 of opposite signs of zero, so there they are equal in value (the model's reading: log entry 10). -/
def Obligations.ZeroGainIdentity : Prop :=
  ∀ (c : Cfg) (fc q fs cw alpha sw : F32) (n : Nat), c.pow10 F32.zero = F32.one →
    (bqPre c fc q F32.zero fs).Gives n (F32.one, cw, sw, alpha) →
    F32.isFinite cw = true → F32.isFinite alpha = true →
    (∀ a0, (c.add F32.one alpha).Gives n a0 → F32.isFinite a0 = true → F32.isZero a0 = false →
      ∃ a1 a2, (peakDesign c fc q F32.zero fs).Gives n ⟨F32.one, a1, a2, a1, a2⟩) ∧
    (∀ beta a0, (c.mul F32.two alpha).Gives n beta → (c.add F32.two beta).Gives n a0 →
      F32.isFinite a0 = true → F32.isZero a0 = false →
      ∃ b1 a1 a2, (shelfDesign c fc q F32.zero fs).Gives n ⟨F32.one, b1, a2, a1, a2⟩ ∧
        F32.value b1 = F32.value a1 ∧ (F32.isZero (c.flush cw) = false → b1 = a1))

/-- R194, R195: `LFO.SET_AMP` and `LFO.SET_WAVEFORM`. -/
def Obligations.LfoSetters : Prop :=
  ∀ s : State, s.lfo.init = true →
    (F32.isFinite s.arg0 = true → exec .lfoSetAmp s =
      .next { s with lfo := { s.lfo with o := { s.lfo.o with amp := F32.unitClamped s.f0 } } }) ∧
    (s.arg0 = 1#32 → exec .lfoSetWaveform s =
      .next { s with lfo := { s.lfo with o := { s.lfo.o with wave := .rsquare } } }) ∧
    (s.arg0 ≠ 1#32 → exec .lfoSetWaveform s =
      .next { s with lfo := { s.lfo with o := { s.lfo.o with wave := .sine } } })

/-- R185, R193, R232, R237, R242, R252: the four frequency setters: the clamp to half the rate, the increment,
the phase kept, and no NaN drawn. -/
def Obligations.FrequencySetters : Prop :=
  ∀ s : State, F32.isFinite s.arg0 = true →
    (s.lfo.init = true → validRate s.lfo.fs → ∃ hi f inc,
      (Config.cfg.mul s.lfo.fs F32.half).Gives s.draws hi ∧
      (Config.cfg.clamp s.f0 F32.zero hi).Gives s.draws f ∧
      (Config.cfg.div f s.lfo.fs).Gives s.draws inc ∧ F32.within F32.zero f hi = true ∧
      exec .lfoSetFreq s =
        .next { s with lfo := { s.lfo with o := { s.lfo.o with freq := f, inc := inc } } }) ∧
    (s.trs.init = true → validRate s.trs.fs → ∃ hi f inc,
      (Config.cfg.mul s.trs.fs F32.half).Gives s.draws hi ∧
      (Config.cfg.clamp s.f0 F32.zero hi).Gives s.draws f ∧
      (Config.cfg.div f s.trs.fs).Gives s.draws inc ∧ F32.within F32.zero f hi = true ∧
      exec .trsSetSpeed s =
        .next { s with trs := { s.trs with o := { s.trs.o with freq := f, inc := inc } } }) ∧
    (s.trq.init = true → validRate s.trq.fs → ∃ hi f inc,
      (Config.cfg.mul s.trq.fs F32.half).Gives s.draws hi ∧
      (Config.cfg.clamp s.f0 F32.zero hi).Gives s.draws f ∧
      (Config.cfg.div f s.trq.fs).Gives s.draws inc ∧ F32.within F32.zero f hi = true ∧
      exec .trqSetSpeed s =
        .next { s with trq := { s.trq with o := { s.trq.o with freq := f, inc := inc } } }) ∧
    (s.trh.init = true → validRate s.trh.fs → ∃ hi f inc,
      (Config.cfg.mul s.trh.fs F32.half).Gives s.draws hi ∧
      (Config.cfg.clamp s.f0 F32.zero hi).Gives s.draws f ∧
      (Config.cfg.div f s.trh.fs).Gives s.draws inc ∧ F32.within F32.zero f hi = true ∧
      exec .trhSetSpeed s =
        .next { s with trh := { s.trh with o := { s.trh.o with freq := f, inc := inc } } })

/-- R231, R238, R243, R253: the three depth setters: the clamped depth, and the amplitude scaled by one half
(TRS, TRQ) or 1.25 (TRH), a rounded product (below 2^-125 R231 calls it exact and the model rounds it: log
entry 10). -/
def Obligations.DepthSetters : Prop :=
  ∀ s : State, F32.isFinite s.arg0 = true →
    (s.trs.init = true → ∃ a,
      (Config.cfg.mul (F32.unitClamped s.f0) 0x3F000000#32).Gives s.draws a ∧
      exec .trsSetDepth s = .next
        { s with trs := { s.trs with
            depth := F32.unitClamped s.f0, o := { s.trs.o with amp := a } } }) ∧
    (s.trq.init = true → ∃ a,
      (Config.cfg.mul (F32.unitClamped s.f0) 0x3F000000#32).Gives s.draws a ∧
      exec .trqSetDepth s = .next
        { s with trq := { s.trq with
            depth := F32.unitClamped s.f0, o := { s.trq.o with amp := a } } }) ∧
    (s.trh.init = true → ∃ a,
      (Config.cfg.mul (F32.unitClamped s.f0) 0x3FA00000#32).Gives s.draws a ∧
      exec .trhSetDepth s = .next
        { s with trh := { s.trh with
            depth := F32.unitClamped s.f0, o := { s.trh.o with amp := a } } })

/-- R204, R205: `DLY.SET_DELAY_TIME` and `DLY.SET_FEEDBACK`. -/
def Obligations.DlySetters : Prop :=
  ∀ s : State, s.dly.init = true → F32.isFinite s.arg0 = true → DelayInRange s →
    exec .dlySetDelayTime s = .next
      { s with dly := { s.dly with dt := F32.clamped s.f0 s.dly.dlo s.dly.dmax } } ∧
    exec .dlySetFeedback s =
      .next { s with dly := { s.dly with fb := F32.unitClamped s.f0 } }

/-- R272, R273, R282, R293 to R301, R305: the nine setters of RVP. Every one but `SET_MIX` calls
`PLATE.apply` once, with the complete parameter set. -/
def Obligations.RvpSetters : Prop :=
  ∀ s : State, s.rvp.init = true →
    let apply := fun (p : RvParams) =>
      ({ s with
         rvp := { s.rvp with
           p := p,
           sigma := Config.cfg.plate.apply s.rvp.sigma
             { decay := p.decay, diffusion := p.diffusion, predelay := p.predelay, inhc := p.inhc,
               tankhc := p.tankhc, speed := Config.cfg.rvpSpeedTable p.spos,
               depth := Config.cfg.rvpDepthTable p.dpos,
               shape := Config.cfg.rvpShapeTable p.shpos } } } : State)
    let pos : Fin 3 := if s.arg0 = 0#32 then 0 else if s.arg0 = 2#32 then 2 else 1
    let v := F32.unitClamped s.f0
    (F32.isFinite s.arg0 = true →
      exec .rvpSetMix s = .next { s with rvp := { s.rvp with p := { s.rvp.p with mix := v } } } ∧
      exec .rvpSetDecay s = .next (apply { s.rvp.p with decay := v }) ∧
      exec .rvpSetDiffusion s = .next (apply { s.rvp.p with diffusion := v }) ∧
      exec .rvpSetPredelay s = .next (apply { s.rvp.p with predelay := v }) ∧
      exec .rvpSetInputHighcut s = .next (apply { s.rvp.p with inhc := v }) ∧
      exec .rvpSetTankHighcut s = .next (apply { s.rvp.p with tankhc := v })) ∧
    exec .rvpSetTankModSpeed s = .next (apply { s.rvp.p with spos := pos }) ∧
    exec .rvpSetTankModDepth s = .next (apply { s.rvp.p with dpos := pos }) ∧
    exec .rvpSetTankModShape s = .next (apply { s.rvp.p with shpos := pos })

/-- R271 to R273, R277, R312, R333 to R341: the nine setters of RVH, three of which only store. -/
def Obligations.RvhSetters : Prop :=
  ∀ s : State, s.rvh.init = true →
    let pos : Fin 3 := if s.arg0 = 0#32 then 0 else if s.arg0 = 2#32 then 2 else 1
    let v := F32.unitClamped s.f0
    let u := s.rvh
    (F32.isFinite s.arg0 = true →
      exec .rvhSetMix s = .next { s with rvh := { u with p := { u.p with mix := v } } } ∧
      exec .rvhSetDecay s = .next
        { s with rvh := { u with
            p := { u.p with decay := v }, g := Config.cfg.rvhDecayMap v } } ∧
      exec .rvhSetDiffusion s =
        .next { s with rvh := { u with p := { u.p with diffusion := v } } } ∧
      (∃ q, (Config.cfg.mul v (F32.ofNat Config.cfg.rvhPredelayMax)).Gives s.draws q ∧
        F32.roundEvenNat q ≤ Config.cfg.rvhPredelayMax ∧
        exec .rvhSetPredelay s = .next
          { s with rvh := { u with
              p := { u.p with predelay := v }, pd := F32.roundEvenNat q } }) ∧
      exec .rvhSetInputHighcut s =
        .next { s with rvh := { u with p := { u.p with inhc := v } } } ∧
      exec .rvhSetTankHighcut s = .next
        { s with rvh := { u with
            p := { u.p with tankhc := v }, ad := Config.cfg.rvhHcMap v } }) ∧
    (validRate u.fs → ∃ hi f inc,
      (Config.cfg.mul u.fs F32.half).Gives s.draws hi ∧
      (Config.cfg.clamp (Config.cfg.rvhSpeedTable pos) F32.zero hi).Gives s.draws f ∧
      (Config.cfg.div f u.fs).Gives s.draws inc ∧
      exec .rvhSetTankModSpeed s = .next
        { s with rvh := { u with
            p := { u.p with spos := pos }, o := { u.o with freq := f, inc := inc } } }) ∧
    exec .rvhSetTankModDepth s =
      .next { s with rvh := { u with p := { u.p with dpos := pos } } } ∧
    exec .rvhSetTankModShape s =
      .next { s with rvh := { u with p := { u.p with shpos := pos } } }

/-- R271 to R273, R277, R354, R363 to R371: the nine setters of RVS, seven of which only store. -/
def Obligations.RvsSetters : Prop :=
  ∀ s : State, s.rvs.init = true →
    let pos : Fin 3 := if s.arg0 = 0#32 then 0 else if s.arg0 = 2#32 then 2 else 1
    let v := F32.unitClamped s.f0
    let u := s.rvs
    (F32.isFinite s.arg0 = true →
      exec .rvsSetMix s = .next { s with rvs := { u with p := { u.p with mix := v } } } ∧
      (∃ g, (Config.cfg.clamp v F32.zero Config.cfg.rvsDecayMax).Gives s.draws g ∧
        F32.within F32.zero g Config.cfg.rvsDecayMax = true ∧
        exec .rvsSetDecay s =
          .next { s with rvs := { u with p := { u.p with decay := v }, g := g } }) ∧
      exec .rvsSetDiffusion s =
        .next { s with rvs := { u with p := { u.p with diffusion := v } } } ∧
      exec .rvsSetPredelay s =
        .next { s with rvs := { u with p := { u.p with predelay := v } } } ∧
      exec .rvsSetInputHighcut s =
        .next { s with rvs := { u with p := { u.p with inhc := v } } } ∧
      exec .rvsSetTankHighcut s =
        .next { s with rvs := { u with p := { u.p with tankhc := v } } }) ∧
    exec .rvsSetTankModSpeed s = .next { s with rvs := { u with p := { u.p with spos := pos } } } ∧
    exec .rvsSetTankModDepth s = .next { s with rvs := { u with p := { u.p with dpos := pos } } } ∧
    exec .rvsSetTankModShape s = .next { s with rvs := { u with p := { u.p with shpos := pos } } }

/-! ## Sample memory -/

/-- R90 (with R89, R92, R93): a history read takes the sample at (w − k) mod n; and from a zeroed line, after any
writes, that is the k-th sample from the end of what was written, or +0 where fewer than k writes have
happened. -/
def Obligations.HistoryOfWrites : Prop :=
  (∀ (n : Nat) (l : Line) (k : Nat), 1 ≤ k → k ≤ n - 1 → l.w < n →
    l.hist n k = Memory.read l.buf (((l.w : Int) - k) % n).toNat) ∧
  ∀ (n : Nat) (vs : List F32) (k : Nat), 1 ≤ k → k ≤ n - 1 →
    (vs.foldl (fun l v => l.push n v) Line.zero).hist n k = vs.reverse.getD (k - 1) 0#32

/-- R91, R94: the fractional read and the all-pass stage, one rounded operation at a time; and a read at an
integer distance is the sample itself, where the difference of the two samples does not overflow; under
`FTZ` only for a sample that is not subnormal (log entries 5 and 10). -/
def Obligations.LineStages : Prop :=
  (∀ (c : Cfg) (n : Nat) (l : Line) (d : F32) (k : Nat),
    let i := F32.floorNat d
    let f := c.sub d (F32.ofNat i) k
    let a := l.hist n i
    let e := c.sub (l.hist n (i + 1)) a f.2
    let p := c.mul e.1 f.1 e.2
    lineRead c n l d k = c.add a p.1 p.2) ∧
  (∀ (c : Cfg) (len : Nat) (l : Line) (g x : F32) (k : Nat),
    let s := l.hist (len + 1) len
    let q := c.mul g s k
    let t := c.sub x q.1 q.2
    let r := c.mul g t.1 t.2
    let y := c.add s r.1 r.2
    allpass c len l g x k = ((y.1, l.push (len + 1) t.1), y.2)) ∧
  (∀ (c : Cfg) (n : Nat) (l : Line) (i : Nat) (k : Nat) (e : F32), 1 ≤ i → i + 2 ≤ n →
    i < 2 ^ 24 → (c.sub (l.hist n (i + 1)) (l.hist n i)).Gives k e → F32.isFinite e = true →
    F32.isFinite (l.hist n i) = true → F32.isZero (c.flush (l.hist n i)) = false →
    (lineRead c n l (F32.ofNat i)).Gives k (c.flush (l.hist n i)))

/-! ## What the rules say of the results -/

/-- R274: the mix law, and its two ends: for finite wet, mix 0 gives the input and mix 1 the wet sample, up
to the sign of a zero. R274 says so of every finite sample; under `FTZ` the model gives a zero for a
subnormal one (its reading: log entries 5 and 10). -/
def Obligations.MixEnds : Prop :=
  ∀ (c : Cfg) (x w : F32) (k : Nat),
    (∀ mix,
      let d := c.sub F32.one mix k
      let p := c.mul d.1 x d.2
      let q := c.mul mix w p.2
      mixLaw c mix x w k = c.add p.1 q.1 q.2) ∧
    (F32.isFinite x = true → F32.isFinite w = true →
      ∃ r r', (mixLaw c F32.zero x w).Gives k r ∧ (mixLaw c F32.one x w).Gives k r' ∧
        F32.value r = F32.value (c.flush x) ∧ F32.value r' = F32.value (c.flush w))

/-- R236, R241: with depth 0 (and the amplitude 0 that R231 gives it) the gain of TRS and TRQ is exactly 1, and
each output equals its input, whatever the phase: for the sine on any configuration whose `SIN` is finite
on finite operands, for the rounded square where the shape is finite there. R236 says that the output
equals the input; under `FTZ` the model gives a zero for a subnormal one (its reading: log entries 5
and 10). -/
def Obligations.TremoloDepthZero : Prop :=
  ∀ (c : Cfg) (u : TrmUnit) (x y : F32) (k : Nat), F32.isFinite x = true → F32.isFinite y = true →
    u.depth = F32.zero → u.o.amp = F32.zero → u.o.InRange →
    (u.o.wave = .sine ∧ (∀ φ, F32.isFinite φ = true → F32.isFinite (c.sin φ) = true) ∨
      u.o.wave = .rsquare ∧
        ∃ v, (shape c .rsquare u.o.phase).Gives k v ∧ F32.isFinite v = true) →
    ∃ u' : TrmUnit, (trmStep c u x y).Gives k (u', c.flush x, c.flush y)

/-- R317: on integers small enough to add exactly, `HAD8` is the Hadamard matrix of order 8,
`H8[i][j] = (−1)^popcount(i AND j)`, followed by one rounded scaling. -/
def Obligations.HadamardMatrix : Prop :=
  ∀ (c : Cfg) (n : Fin 8 → Int) (k : Nat), (∀ j, (n j).natAbs ≤ 2 ^ 20) →
    ∃ m : Eight F32,
      (had8 c (Eight.make fun j => F32.ofInt (n j))).Gives k m ∧
      ∀ i : Fin 8,
        (c.mul (F32.ofInt (((List.finRange 8).map fun j =>
            if (((List.range 3).countP fun b => i.val.testBit b && j.val.testBit b) % 2 = 0)
            then n j else - n j).sum)) F32.invSqrt8).Gives k (m.get i)

/-- R183, R311, R313, R314: from an oscillator in range, the triangle lies in [−1, 1] and every delay time of
the Hall lies within `RVH_MOD_MAX` of its line's nominal length, where its line can be read. -/
def Obligations.HallDelayRange : Prop :=
  ∀ (u : RvhUnit) (k : Nat), u.o.InRange → u.o.wave = .triangle → u.o.amp = F32.one →
    ∃ (tri : F32) (o : Osc) (ds : Eight F32),
      (oscStep Config.cfg u.o).Gives k (tri, o) ∧
      F32.within (F32.neg F32.one) tri F32.one = true ∧
      (hallDelays Config.cfg u).Gives k (o, ds) ∧
      ∀ j : Fin 8,
        F32.within (F32.ofNat (Config.cfg.rvhLen j - Config.cfg.rvhModMax)) (ds.get j)
          (F32.ofNat (Config.cfg.rvhLen j + Config.cfg.rvhModMax)) = true ∧
        lineReadable (hallLen Config.cfg j) (ds.get j) = true

/-- R202: at a settled integer delay of k samples with no feedback, `DLY.PROCESS` returns the samples written k
writes ago and writes the inputs, as the rule's corner case says, where the inputs are not zero and the
stored samples are finite, not zero, and far from overflow (under `FTZ`, not subnormal either: log entries 5
and 10). -/
def Obligations.IntegerDelay : Prop :=
  ∀ (s : State) (k : Nat), s.dly.init = true → F32.isFinite s.arg0 = true →
    F32.isFinite s.arg1 = true → F32.isZero s.f0 = false → F32.isZero s.f1 = false →
    1 ≤ k → k ≤ Config.cfg.maxDelaySamples → s.dly.dmax = F32.ofNat Config.cfg.maxDelaySamples →
    s.dly.dt = F32.ofNat k → s.dly.dc = F32.ofNat k → s.dly.fb = F32.zero →
    (∀ l, (l = s.dly.lineL ∨ l = s.dly.lineR) →
      F32.isZero (Config.cfg.flush (l.hist (dlyLen Config.cfg) k)) = false ∧
      F32.mag (l.hist (dlyLen Config.cfg) k) < 0x7E800000 ∧
      F32.mag (l.hist (dlyLen Config.cfg) (k + 1)) < 0x7E800000) →
    exec .dlyProcess s = .next
      { s with
        dly := { s.dly with
          lineL := s.dly.lineL.push (dlyLen Config.cfg) s.f0,
          lineR := s.dly.lineR.push (dlyLen Config.cfg) s.f1 },
        res0 := Config.cfg.flush (s.dly.lineL.hist (dlyLen Config.cfg) k),
        res1 := Config.cfg.flush (s.dly.lineR.hist (dlyLen Config.cfg) k) }

/-- R141 says that with a = 1 the low-pass output equals x exactly for finite x. Its own pseudocode, in
binary32, does not (log entry 10): expected to FAIL. Under `FTZ` it is stated with a subnormal x read as a
zero (log entry 5). -/
def Obligations.LowPassUnityExact : Prop :=
  ∀ (c : Cfg) (y x : F32) (k : Nat), F32.isFinite y = true → F32.isFinite x = true →
    (lp1 c y F32.one x k).1 = c.flush x

/-- R184 says that no step sets both flags, because the increment is at most one half. Its own pseudocode,
in binary32, can (log entry 10): expected to FAIL. -/
def Obligations.NoStepSetsBothFlags : Prop :=
  ∀ (c : Cfg) (o : Osc) (k : Nat), F32.le F32.zero o.phase = true →
    F32.lt o.phase F32.one = true → F32.within F32.zero o.inc F32.half = true →
    ¬ ((advance c o k).1.eoc = true ∧ (advance c o k).1.eorh = true)

/-! ## Invariants -/

/-- The state after reset satisfies the invariant (its unit state is the model's choice: log entry 3). -/
def Obligations.InvAtReset : Prop := Inv State.reset

/-- Every step keeps the canonical form of every delay line: the write index and every listed index below the
line's length (R57, R58, R89, R92, R93), and the two indices of DLY equal (R52). That the listed indices rise
and that no entry is +0 is the model's own form of a line's contents, no rule of the spec (DESIGN CHOICE,
log entry 8). After a block reset the lines are what the model chose (log entry 3). -/
def Obligations.LinesCanonicalKept : Prop :=
  ∀ s t : State, LinesCanonical s → step s = .next t → LinesCanonical t

/-- R55, R194, R205, R231, R272, R312, R318, R354: every step keeps every clamped parameter in its range. Over a
block reset that rests on the unit values the model chose, which R450 leaves open (log entry 3). -/
def Obligations.ParamsInRangeKept : Prop :=
  ∀ s t : State, ParamsInRange s → step s = .next t → ParamsInRange t

/-- R200, R202, R204: every step keeps the delay times in range. -/
def Obligations.DelayInRangeKept : Prop :=
  ∀ s t : State, DelayInRange s → step s = .next t → DelayInRange t

/-- R51, R184, R185: every step keeps every oscillator's phase in [0,1) and its increment in range. -/
def Obligations.OscsInRangeKept : Prop :=
  ∀ s t : State, OscsInRange s → step s = .next t → OscsInRange t

/-- R84, R400, R403: from every state that satisfies the invariant, a step whose next event is admitted
completes, in a state that satisfies it: no command stops the block. Three parts are the model's own: the
wide bounds of the invariant (log entry 10); after a block reset, the unit values, which R450 leaves open
(log entry 3); and that a block reset keeps the events still to come (log entry 9). -/
def Obligations.AdmittedStepCompletes : Prop :=
  ∀ s : State, Inv s → (∀ e, s.pending.head? = some e → eventAdmitted e = true) →
    ∃ t, step s = .next t ∧ Inv t ∧ t.pending = s.pending.tail

/-- R84, R95, R400: a run of admitted events from reset never stops, whatever the commands, operands and
their order. The unit state it starts from, and has again after a block reset, is the model's choice (log
entry 3), and so is that a block reset keeps the events still to come (log entry 9). -/
def Obligations.AdmittedRunNeverStops : Prop :=
  ∀ (events : List HostEvent) (n : Nat), (∀ e ∈ events, eventAdmitted e = true) →
    ∃ t, Sys2Proof.core.run n { State.reset with pending := events } = .next t ∧ Inv t ∧
      t.pending = events.drop n
end

