-- ==== Sys2Proof/Laws/Float.lean ====
section
/-! SUPPORT. Binary32 rounding (Machine/Float.lean): it is monotone, it leaves representable values as
they are, and the order of encodings is the order of values. Every bound on a result is a sandwich
of these three. -/

namespace Sys2Proof

/-- Bits 30:0 of a packed encoding. -/
theorem F32.mag_pack (s : Bool) (m : Nat) (h : m < 2 ^ 31) : F32.mag (F32.pack s m) = m := by
  unfold F32.mag F32.pack
  rw [BitVec.toNat_ofNat]
  cases s <;> simp <;> omega

/-- The sign of a packed encoding. -/
theorem F32.sign_pack (s : Bool) (m : Nat) (h : m < 2 ^ 31) : F32.sign (F32.pack s m) = s := by
  unfold F32.sign F32.pack
  cases s
  · simp only [Bool.false_eq_true, if_false, Nat.zero_add]
    rw [BitVec.getLsbD_ofNat]
    simp [Nat.testBit_lt_two_pow h]
  · simp only [if_true]
    rw [BitVec.getLsbD_ofNat, Nat.testBit_two_pow_add_eq, Nat.testBit_lt_two_pow h]
    rfl

/-- The magnitude in units depends on bits 30:0 alone. -/
def F32.unitsOfMag (m : Nat) : Nat :=
  if m / 2 ^ 23 = 0 then m % 2 ^ 23 else (2 ^ 23 + m % 2 ^ 23) * 2 ^ (m / 2 ^ 23 - 1)

theorem F32.units_eq (x : F32) : F32.units x = F32.unitsOfMag (F32.mag x) := rfl

/-- The next encoding is a larger value. -/
theorem F32.unitsOfMag_lt_succ (m : Nat) : F32.unitsOfMag m < F32.unitsOfMag (m + 1) := by
  unfold F32.unitsOfMag
  rcases Nat.lt_or_ge (m % 2 ^ 23 + 1) (2 ^ 23) with h | h
  · have hd : (m + 1) / 2 ^ 23 = m / 2 ^ 23 := by omega
    have hm : (m + 1) % 2 ^ 23 = m % 2 ^ 23 + 1 := by omega
    rw [hd, hm]
    split
    · omega
    · exact Nat.mul_lt_mul_of_pos_right (by omega) (Nat.two_pow_pos _)
  · have hd : (m + 1) / 2 ^ 23 = m / 2 ^ 23 + 1 := by omega
    have hm : (m + 1) % 2 ^ 23 = 0 := by omega
    have hr : m % 2 ^ 23 = 2 ^ 23 - 1 := by omega
    rw [hd, hm, hr]
    rw [if_neg (by omega : ¬ (m / 2 ^ 23 + 1 = 0))]
    split
    · rename_i h0
      rw [h0]
      norm_num
    · rename_i h0
      have : m / 2 ^ 23 + 1 - 1 = (m / 2 ^ 23 - 1) + 1 := by omega
      rw [this, pow_succ 2 (m / 2 ^ 23 - 1)]
      have hp := Nat.two_pow_pos (m / 2 ^ 23 - 1)
      generalize 2 ^ (m / 2 ^ 23 - 1) = P at hp ⊢
      omega

/-- The order of encodings is the order of values. -/
theorem F32.unitsOfMag_strictMono : StrictMono F32.unitsOfMag :=
  strictMono_nat_of_lt_succ F32.unitsOfMag_lt_succ

theorem F32.units_le_iff (x y : F32) : F32.units x ≤ F32.units y ↔ F32.mag x ≤ F32.mag y :=
  F32.unitsOfMag_strictMono.le_iff_le

theorem F32.units_lt_iff (x y : F32) : F32.units x < F32.units y ↔ F32.mag x < F32.mag y :=
  F32.unitsOfMag_strictMono.lt_iff_lt

/-- Rounding to the nearest integer, ties to even, of `p / d`. -/
def F32.nearest (p d : Nat) : Nat :=
  if d < 2 * (p % d) ∨ (2 * (p % d) = d ∧ p / d % 2 = 1) then p / d + 1 else p / d

theorem F32.nearest_ge (p d : Nat) : p / d ≤ F32.nearest p d := by
  unfold F32.nearest; split <;> omega

theorem F32.nearest_le (p d : Nat) : F32.nearest p d ≤ p / d + 1 := by
  unfold F32.nearest; split <;> omega

/-- Rounding to the nearest integer is monotone. -/
theorem F32.nearest_mono {p q d d' : Nat} (hd : 0 < d) (hd' : 0 < d') (h : p * d' ≤ q * d) :
    F32.nearest p d ≤ F32.nearest q d' := by
  have hp := Nat.div_add_mod p d
  have hq := Nat.div_add_mod q d'
  have hpr := Nat.mod_lt p hd
  have hqr := Nat.mod_lt q hd'
  unfold F32.nearest
  set t := p / d with ht
  set r := p % d with hr
  set t' := q / d' with ht'
  set r' := q % d' with hr'
  have hle : t ≤ t' := by
    by_contra hc
    have : t' + 1 ≤ t := by omega
    have h1 : d * (t' + 1) * d' ≤ p * d' := by
      apply Nat.mul_le_mul_right
      calc d * (t' + 1) ≤ d * t := Nat.mul_le_mul_left _ this
        _ ≤ p := by omega
    have h2 : q < d' * (t' + 1) := by rw [Nat.mul_succ]; omega
    have h3 : q * d < d' * (t' + 1) * d := Nat.mul_lt_mul_of_pos_right h2 hd
    nlinarith
  rcases Nat.lt_or_ge t t' with hlt | hge
  · split <;> split <;> omega
  · have he : t = t' := by omega
    have hrr : r * d' ≤ r' * d := by
      have e1 : p * d' = d * t * d' + r * d' := by rw [← hp]; ring
      have e2 : q * d = d' * t' * d + r' * d := by rw [← hq]; ring
      have e3 : d * t * d' = d' * t' * d := by rw [he]; ring
      omega
    split
    · rename_i hc
      split
      · omega
      · rename_i hn
        exfalso
        rcases hc with hc | ⟨hc, ho⟩
        · have a1 : d * d' < 2 * r * d' := Nat.mul_lt_mul_of_pos_right hc hd'
          have a2 : ¬ d' < 2 * r' := fun x => hn (Or.inl x)
          have a3 : 2 * r' * d ≤ d' * d := Nat.mul_le_mul_right _ (by omega)
          nlinarith
        · have a2 : ¬ d' < 2 * r' := fun x => hn (Or.inl x)
          have a4 : ¬ 2 * r' = d' := fun x => hn (Or.inr ⟨x, by omega⟩)
          have a3 : (2 * r' + 1) * d ≤ d' * d := Nat.mul_le_mul_right _ (by omega)
          have a5 : 2 * r * d' = d * d' := by rw [hc]
          nlinarith
    · split <;> omega

theorem F32.roundUnits_eq (p q : Nat) (h : ¬ F32.unitsLimit ≤ p / q) :
    F32.roundUnits p q =
      (Nat.log2 (p / q) - 23) * 2 ^ 23 + F32.nearest p (q * 2 ^ (Nat.log2 (p / q) - 23)) := by
  unfold F32.roundUnits F32.nearest
  rw [if_neg h]

theorem F32.unitsLimit_eq : F32.unitsLimit = 2 ^ 277 := by
  unfold F32.unitsLimit; rw [← pow_add]

/-- A rounded encoding is at most that of an infinity. -/
theorem F32.roundUnits_le (p q : Nat) : F32.roundUnits p q ≤ 0x7F800000 := by
  by_cases h : F32.unitsLimit ≤ p / q
  · unfold F32.roundUnits; rw [if_pos h]
  · rw [F32.roundUnits_eq p q h]
    rw [F32.unitsLimit_eq] at h
    set f := p / q with hf
    have hl : Nat.log2 f ≤ 276 := by
      by_cases h0 : f = 0
      · rw [h0]; simp
      · have : f < 2 ^ 277 := by omega
        have := (Nat.log2_lt h0).2 this
        omega
    have hdiv : p / (q * 2 ^ (Nat.log2 f - 23)) < 2 ^ 24 := by
      rw [← Nat.div_div_eq_div_mul, ← hf]
      rw [Nat.div_lt_iff_lt_mul (Nat.two_pow_pos _), ← pow_add]
      by_cases h0 : f = 0
      · rw [h0]; exact Nat.two_pow_pos _
      · calc f < 2 ^ (Nat.log2 f + 1) := (Nat.log2_lt h0).1 (by omega)
          _ ≤ _ := Nat.pow_le_pow_right (by omega) (by omega)
    have hn := F32.nearest_le p (q * 2 ^ (Nat.log2 f - 23))
    have : (Nat.log2 f - 23) * 2 ^ 23 ≤ 253 * 2 ^ 23 := Nat.mul_le_mul_right _ (by omega)
    have h24 : F32.nearest p (q * 2 ^ (Nat.log2 f - 23)) ≤ 2 ^ 24 := by omega
    calc (Nat.log2 f - 23) * 2 ^ 23 + F32.nearest p (q * 2 ^ (Nat.log2 f - 23))
        ≤ 253 * 2 ^ 23 + 2 ^ 24 := Nat.add_le_add this h24
      _ = 0x7F800000 := by norm_num

/-- Rounding is monotone: a larger rational has an encoding at least as large. -/
theorem F32.roundUnits_mono {p q p' q' : Nat} (hq : 0 < q) (hq' : 0 < q')
    (h : p * q' ≤ p' * q) : F32.roundUnits p q ≤ F32.roundUnits p' q' := by
  have hff : p / q ≤ p' / q' := by
    rw [Nat.le_div_iff_mul_le hq']
    by_contra hc
    have h1 : p' + 1 ≤ p / q * q' := by omega
    have h2 : (p' + 1) * q ≤ p / q * q' * q := Nat.mul_le_mul_right _ h1
    have h3 : p / q * q ≤ p := Nat.div_mul_le_self p q
    have h4 : p / q * q * q' ≤ p * q' := Nat.mul_le_mul_right _ h3
    nlinarith
  by_cases hl' : F32.unitsLimit ≤ p' / q'
  · have : F32.roundUnits p' q' = 0x7F800000 := by unfold F32.roundUnits; rw [if_pos hl']
    rw [this]; exact F32.roundUnits_le p q
  · have hl : ¬ F32.unitsLimit ≤ p / q := by omega
    rw [F32.roundUnits_eq p q hl, F32.roundUnits_eq p' q' hl']
    set f := p / q with hf
    set f' := p' / q' with hf'
    have hlog : Nat.log2 f ≤ Nat.log2 f' := by
      by_cases h0 : f = 0
      · rw [h0]; simp
      · have h1 : f' ≠ 0 := fun hz => h0 (Nat.le_zero.1 (hz ▸ hff))
        rw [Nat.le_log2 h1]
        exact le_trans (Nat.log2_self_le h0) hff
    set e := Nat.log2 f - 23 with he
    set e' := Nat.log2 f' - 23 with he'
    have hee : e ≤ e' := by omega
    rcases Nat.lt_or_ge e e' with hlt | hge
    · have hdiv : p / (q * 2 ^ e) < 2 ^ 24 := by
        rw [← Nat.div_div_eq_div_mul, ← hf]
        rw [Nat.div_lt_iff_lt_mul (Nat.two_pow_pos _), ← pow_add]
        by_cases h0 : f = 0
        · rw [h0]; exact Nat.two_pow_pos _
        · calc f < 2 ^ (Nat.log2 f + 1) := (Nat.log2_lt h0).1 (by omega)
            _ ≤ _ := Nat.pow_le_pow_right (by omega) (by omega)
      have hn := F32.nearest_le p (q * 2 ^ e)
      have hdiv' : 2 ^ 23 ≤ p' / (q' * 2 ^ e') := by
        rw [← Nat.div_div_eq_div_mul, ← hf']
        rw [Nat.le_div_iff_mul_le (Nat.two_pow_pos _), ← pow_add]
        have h0 : f' ≠ 0 := by intro h0; rw [h0] at he'; simp at he'; omega
        calc 2 ^ (23 + e') ≤ 2 ^ Nat.log2 f' := Nat.pow_le_pow_right (by omega) (by omega)
          _ ≤ f' := Nat.log2_self_le h0
      have hn' := F32.nearest_ge p' (q' * 2 ^ e')
      have : (e + 1) * 2 ^ 23 ≤ e' * 2 ^ 23 := Nat.mul_le_mul_right _ hlt
      omega
    · have hE : e = e' := by omega
      rw [hE]
      apply Nat.add_le_add_left
      apply F32.nearest_mono
      · exact Nat.mul_pos hq (Nat.two_pow_pos _)
      · exact Nat.mul_pos hq' (Nat.two_pow_pos _)
      · calc p * (q' * 2 ^ e') = p * q' * 2 ^ e' := by ring
          _ ≤ p' * q * 2 ^ e' := Nat.mul_le_mul_right _ h
          _ = p' * (q * 2 ^ e') := by ring

theorem F32.nearest_exact (t d : Nat) (hd : 0 < d) : F32.nearest (t * d) d = t := by
  unfold F32.nearest
  rw [Nat.mul_mod_left, Nat.mul_div_cancel _ hd]
  rw [if_neg]
  omega

/-- A representable value rounds to itself. -/
theorem F32.roundUnits_exact (m q : Nat) (hq : 0 < q) (hm : m < 0x7F800000) :
    F32.roundUnits (F32.unitsOfMag m * q) q = m := by
  have hdiv : F32.unitsOfMag m * q / q = F32.unitsOfMag m := Nat.mul_div_cancel _ hq
  by_cases h0 : m / 2 ^ 23 = 0
  · have hu : F32.unitsOfMag m = m := by unfold F32.unitsOfMag; rw [if_pos h0]; omega
    have hm23 : m < 2 ^ 23 := by omega
    have hlim : ¬ F32.unitsLimit ≤ F32.unitsOfMag m * q / q := by
      rw [hdiv, hu, F32.unitsLimit_eq]
      exact Nat.not_le.2 (lt_of_lt_of_le hm23 (Nat.pow_le_pow_right (by omega) (by omega)))
    rw [F32.roundUnits_eq _ _ hlim, hdiv, hu]
    have hl : Nat.log2 m - 23 = 0 := by
      by_cases hz : m = 0
      · rw [hz]; simp
      · have := (Nat.log2_lt hz).2 hm23; omega
    rw [hl]
    simp only [pow_zero, Nat.mul_one, Nat.zero_mul, Nat.zero_add]
    exact F32.nearest_exact m q hq
  · have hu : F32.unitsOfMag m = (2 ^ 23 + m % 2 ^ 23) * 2 ^ (m / 2 ^ 23 - 1) := by
      unfold F32.unitsOfMag; rw [if_neg h0]
    have hpos := Nat.two_pow_pos (m / 2 ^ 23 - 1)
    have hne : F32.unitsOfMag m ≠ 0 := by rw [hu]; positivity
    have hlog : Nat.log2 (F32.unitsOfMag m) = 23 + (m / 2 ^ 23 - 1) := by
      rw [Nat.log2_eq_iff hne, hu]
      constructor
      · rw [pow_add]; exact Nat.mul_le_mul_right _ (by omega)
      · rw [show 23 + (m / 2 ^ 23 - 1) + 1 = 24 + (m / 2 ^ 23 - 1) by omega, pow_add]
        exact Nat.mul_lt_mul_of_pos_right (by omega) hpos
    have hlim : ¬ F32.unitsLimit ≤ F32.unitsOfMag m * q / q := by
      rw [hdiv, F32.unitsLimit_eq, Nat.not_le]
      rw [← Nat.log2_lt hne, hlog]
      omega
    rw [F32.roundUnits_eq _ _ hlim, hdiv, hlog]
    have : 23 + (m / 2 ^ 23 - 1) - 23 = m / 2 ^ 23 - 1 := by omega
    rw [this, hu]
    rw [show (2 ^ 23 + m % 2 ^ 23) * 2 ^ (m / 2 ^ 23 - 1) * q =
      (2 ^ 23 + m % 2 ^ 23) * (q * 2 ^ (m / 2 ^ 23 - 1)) by ring]
    rw [F32.nearest_exact _ _ (Nat.mul_pos hq hpos)]
    omega

/-- The rounding of a rational that is at most a representable value is at most it. -/
theorem F32.roundUnits_le_of_le {p q m : Nat} (hq : 0 < q) (hm : m < 0x7F800000)
    (h : p ≤ F32.unitsOfMag m * q) : F32.roundUnits p q ≤ m := by
  have := F32.roundUnits_mono (p := p) (q := q) (p' := F32.unitsOfMag m * q) (q' := q) hq hq
    (Nat.mul_le_mul_right _ h)
  rwa [F32.roundUnits_exact m q hq hm] at this

/-- The rounding of a rational that is at least a representable value is at least it. -/
theorem F32.le_roundUnits_of_le {p q m : Nat} (hq : 0 < q) (hm : m < 0x7F800000)
    (h : F32.unitsOfMag m * q ≤ p) : m ≤ F32.roundUnits p q := by
  have := F32.roundUnits_mono (p := F32.unitsOfMag m * q) (q := q) (p' := p) (q' := q) hq hq
    (Nat.mul_le_mul_right _ h)
  rwa [F32.roundUnits_exact m q hq hm] at this

/-- The value of a packed encoding. -/
theorem F32.value_pack (s : Bool) (m : Nat) (h : m < 2 ^ 31) :
    F32.value (F32.pack s m) = if s then - (F32.unitsOfMag m : Int) else (F32.unitsOfMag m : Int) := by
  unfold F32.value
  rw [F32.sign_pack s m h, F32.units_eq, F32.mag_pack s m h]

/-- Bits 30:23 are all ones exactly in an infinity or a NaN. -/
theorem F32.isFinite_iff (x : F32) : F32.isFinite x = true ↔ F32.mag x < 0x7F800000 := by
  have hx := x.isLt
  unfold F32.isFinite F32.mag
  simp only [bne_iff_ne, ne_eq, ← BitVec.toNat_inj, BitVec.extractLsb'_toNat, Nat.shiftRight_eq_div_pow,
    BitVec.toNat_ofNat]
  omega

theorem F32.not_isNaN_of_finite {x : F32} (h : F32.isFinite x = true) : F32.isNaN x = false := by
  rw [F32.isFinite_iff] at h
  simp only [F32.isNaN, decide_eq_false_iff_not]
  omega

theorem F32.not_isInf_of_finite {x : F32} (h : F32.isFinite x = true) : F32.isInf x = false := by
  rw [F32.isFinite_iff] at h
  simp only [F32.isInf, beq_eq_false_iff_ne]
  omega

/-- A value that is not negative is its magnitude. -/
theorem F32.value_of_nonneg {x : F32} (h : 0 ≤ F32.value x) : F32.value x = F32.units x := by
  unfold F32.value at *
  split at h
  · rw [if_pos ‹_›]; omega
  · rw [if_neg ‹_›]

/-- A value that is not positive is minus its magnitude. -/
theorem F32.value_of_nonpos {x : F32} (h : F32.value x ≤ 0) : F32.value x = - (F32.units x : Int) := by
  unfold F32.value at *
  split at h
  · rw [if_pos ‹_›]
  · rw [if_neg ‹_›]; omega

theorem F32.neg_units_le_value (x : F32) : - (F32.units x : Int) ≤ F32.value x := by
  unfold F32.value; split <;> omega

theorem F32.value_le_units (x : F32) : F32.value x ≤ F32.units x := by
  unfold F32.value; split <;> omega

/-- The rounding of a signed rational between two finite values is finite and between them. -/
theorem F32.round_between {s : Bool} {p q : Nat} {lo hi : F32} (hq : 0 < q)
    (hlo : F32.isFinite lo = true) (hhi : F32.isFinite hi = true)
    (h1 : F32.value lo * q ≤ if s then - (p : Int) else (p : Int))
    (h2 : (if s then - (p : Int) else (p : Int)) ≤ F32.value hi * q) :
    F32.isFinite (F32.pack s (F32.roundUnits p q)) = true ∧
      F32.value lo ≤ F32.value (F32.pack s (F32.roundUnits p q)) ∧
      F32.value (F32.pack s (F32.roundUnits p q)) ≤ F32.value hi := by
  rw [F32.isFinite_iff] at hlo hhi
  have hb := F32.roundUnits_le p q
  have hlt : F32.roundUnits p q < 2 ^ 31 := by omega
  have hqi : (0 : Int) < q := by exact_mod_cast hq
  rw [F32.isFinite_iff, F32.mag_pack s _ hlt, F32.value_pack s _ hlt]
  cases s
  · simp only [Bool.false_eq_true, if_false] at h1 h2 ⊢
    have hh0 : 0 ≤ F32.value hi := by
      by_contra hc
      have : F32.value hi * q < 0 := Int.mul_neg_of_neg_of_pos (by omega) hqi
      omega
    have hup : F32.roundUnits p q ≤ F32.mag hi := by
      apply F32.roundUnits_le_of_le hq hhi
      rw [F32.value_of_nonneg hh0, F32.units_eq] at h2
      exact_mod_cast h2
    refine ⟨by omega, ?_, ?_⟩
    · rcases le_or_gt (F32.value lo) 0 with hl | hl
      · omega
      · rw [F32.value_of_nonneg hl.le, F32.units_eq] at h1 ⊢
        have : F32.mag lo ≤ F32.roundUnits p q :=
          F32.le_roundUnits_of_le hq hlo (by exact_mod_cast h1)
        exact_mod_cast F32.unitsOfMag_strictMono.monotone this
    · rw [F32.value_of_nonneg hh0, F32.units_eq]
      exact_mod_cast F32.unitsOfMag_strictMono.monotone hup
  · simp only [if_true] at h1 h2 ⊢
    have hl0 : F32.value lo ≤ 0 := by
      by_contra hc
      have : 0 < F32.value lo * q := Int.mul_pos (by omega) hqi
      omega
    have hup : F32.roundUnits p q ≤ F32.mag lo := by
      apply F32.roundUnits_le_of_le hq hlo
      rw [F32.value_of_nonpos hl0, F32.units_eq] at h1
      have h3 : (p : Int) ≤ F32.unitsOfMag (F32.mag lo) * q := by linarith
      exact_mod_cast h3
    refine ⟨by omega, ?_, ?_⟩
    · rw [F32.value_of_nonpos hl0, F32.units_eq]
      have := F32.unitsOfMag_strictMono.monotone hup
      omega
    · rcases le_or_gt 0 (F32.value hi) with hl | hl
      · omega
      · rw [F32.value_of_nonpos hl.le, F32.units_eq] at h2 ⊢
        have h3 : (F32.unitsOfMag (F32.mag hi) * q : Int) ≤ p := by linarith
        have : F32.mag hi ≤ F32.roundUnits p q :=
          F32.le_roundUnits_of_le hq hhi (by exact_mod_cast h3)
        have := F32.unitsOfMag_strictMono.monotone this
        omega

/-- A finite sum that lies between two finite values rounds to a value between them. -/
theorem F32.add_between {x y lo hi : F32} (hx : F32.isFinite x = true) (hy : F32.isFinite y = true)
    (hlo : F32.isFinite lo = true) (hhi : F32.isFinite hi = true)
    (h1 : F32.value lo ≤ F32.value x + F32.value y) (h2 : F32.value x + F32.value y ≤ F32.value hi) :
    ∃ r, F32.add x y = some r ∧ F32.isFinite r = true ∧
      F32.value lo ≤ F32.value r ∧ F32.value r ≤ F32.value hi := by
  unfold F32.add
  simp only [F32.not_isNaN_of_finite hx, F32.not_isNaN_of_finite hy, F32.not_isInf_of_finite hx,
    F32.not_isInf_of_finite hy, Bool.or_self, Bool.false_eq_true, if_false]
  by_cases h0 : F32.value x + F32.value y = 0
  · simp only [if_pos h0]
    refine ⟨_, rfl, ?_, ?_, ?_⟩
    · rw [F32.isFinite_iff, F32.mag_pack _ _ (by norm_num)]; norm_num
    all_goals
      rw [F32.value_pack _ _ (by norm_num)]
      rw [h0] at h1 h2
      have : F32.unitsOfMag 0 = 0 := rfl
      split <;> simp only [this] <;> omega
  · simp only [if_neg h0]
    refine ⟨_, rfl, F32.round_between (by omega) hlo hhi ?_ ?_⟩
    all_goals
      simp only [Nat.cast_one, mul_one]
      split <;> rename_i hs <;> simp at hs <;> omega

/-- Negation changes the sign of the value, and keeps finiteness. -/
theorem F32.mag_neg (x : F32) : F32.mag (F32.neg x) = F32.mag x := by
  unfold F32.mag F32.neg
  have : (x ^^^ 0x80000000#32).toNat % 2 ^ 31 = ((x ^^^ 0x80000000#32).extractLsb' 0 31).toNat := by
    simp [BitVec.extractLsb'_toNat]
  rw [this]
  have h2 : (x ^^^ 0x80000000#32).extractLsb' 0 31 = x.extractLsb' 0 31 := by
    ext i hi
    simp only [BitVec.getElem_extractLsb', Nat.zero_add, BitVec.getLsbD_xor]
    rw [show (0x80000000#32 : BitVec 32) = BitVec.twoPow 32 31 from rfl, BitVec.getLsbD_twoPow]
    have : ¬ 31 = i := by omega
    simp [this]
  rw [h2]
  simp [BitVec.extractLsb'_toNat]

theorem F32.sign_neg (x : F32) : F32.sign (F32.neg x) = !F32.sign x := by
  unfold F32.sign F32.neg
  simp

theorem F32.value_neg (x : F32) : F32.value (F32.neg x) = - F32.value x := by
  unfold F32.value
  rw [F32.sign_neg, F32.units_eq, F32.units_eq, F32.mag_neg]
  cases F32.sign x <;> simp

theorem F32.isFinite_neg (x : F32) : F32.isFinite (F32.neg x) = F32.isFinite x := by
  rw [Bool.eq_iff_iff, F32.isFinite_iff, F32.isFinite_iff, F32.mag_neg]

/-- As `add_between`, of a difference. -/
theorem F32.sub_between {x y lo hi : F32} (hx : F32.isFinite x = true) (hy : F32.isFinite y = true)
    (hlo : F32.isFinite lo = true) (hhi : F32.isFinite hi = true)
    (h1 : F32.value lo ≤ F32.value x - F32.value y) (h2 : F32.value x - F32.value y ≤ F32.value hi) :
    ∃ r, F32.sub x y = some r ∧ F32.isFinite r = true ∧
      F32.value lo ≤ F32.value r ∧ F32.value r ≤ F32.value hi :=
  F32.add_between hx (by rw [F32.isFinite_neg]; exact hy) hlo hhi (by rw [F32.value_neg]; omega)
    (by rw [F32.value_neg]; omega)

theorem F32.mul_sign_units (x y : F32) :
    F32.value x * F32.value y =
      if F32.sign x != F32.sign y then - ((F32.units x * F32.units y : Nat) : Int)
      else ((F32.units x * F32.units y : Nat) : Int) := by
  unfold F32.value
  cases F32.sign x <;> cases F32.sign y <;> simp

/-- A finite product that lies between two finite values rounds to a value between them. The value of
1.0 is 2^149 units. -/
theorem F32.mul_between {x y lo hi : F32} (hx : F32.isFinite x = true) (hy : F32.isFinite y = true)
    (hlo : F32.isFinite lo = true) (hhi : F32.isFinite hi = true)
    (h1 : F32.value lo * 2 ^ 149 ≤ F32.value x * F32.value y)
    (h2 : F32.value x * F32.value y ≤ F32.value hi * 2 ^ 149) :
    ∃ r, F32.mul x y = some r ∧ F32.isFinite r = true ∧
      F32.value lo ≤ F32.value r ∧ F32.value r ≤ F32.value hi := by
  unfold F32.mul
  simp only [F32.not_isNaN_of_finite hx, F32.not_isNaN_of_finite hy, F32.not_isInf_of_finite hx,
    F32.not_isInf_of_finite hy, Bool.or_self, Bool.false_eq_true, if_false]
  rw [F32.mul_sign_units] at h1 h2
  refine ⟨_, rfl, F32.round_between (Nat.two_pow_pos 149) hlo hhi ?_ ?_⟩
  · push_cast at h1 ⊢; exact h1
  · push_cast at h2 ⊢; exact h2

/-- A finite quotient by a positive value that lies between two finite values rounds to a value between
them. -/
theorem F32.div_between {x y lo hi : F32} (hx : F32.isFinite x = true) (hy : F32.isFinite y = true)
    (hpos : 0 < F32.value y) (hlo : F32.isFinite lo = true) (hhi : F32.isFinite hi = true)
    (h1 : F32.value lo * F32.value y ≤ F32.value x * 2 ^ 149)
    (h2 : F32.value x * 2 ^ 149 ≤ F32.value hi * F32.value y) :
    ∃ r, F32.div x y = some r ∧ F32.isFinite r = true ∧
      F32.value lo ≤ F32.value r ∧ F32.value r ≤ F32.value hi := by
  have hy0 : F32.value y = F32.units y := F32.value_of_nonneg hpos.le
  have hup : 0 < F32.units y := by omega
  have hz : F32.isZero y = false := by
    simp only [F32.isZero, beq_eq_false_iff_ne]
    intro hc
    have : F32.units y = 0 := by rw [F32.units_eq, hc]; rfl
    omega
  have hs : F32.sign y = false := by
    by_contra hc
    simp only [Bool.not_eq_false] at hc
    unfold F32.value at hpos
    rw [if_pos hc] at hpos
    omega
  unfold F32.div
  simp only [F32.not_isNaN_of_finite hx, F32.not_isNaN_of_finite hy, F32.not_isInf_of_finite hx,
    F32.not_isInf_of_finite hy, hz, Bool.or_self, Bool.false_eq_true, if_false]
  have hv : (if F32.sign x != F32.sign y then - ((F32.units x * 2 ^ 149 : Nat) : Int)
      else ((F32.units x * 2 ^ 149 : Nat) : Int)) = F32.value x * 2 ^ 149 := by
    unfold F32.value
    rw [hs]
    cases F32.sign x <;> simp
  refine ⟨_, rfl, F32.round_between hup hlo hhi ?_ ?_⟩
  · rw [hv, ← hy0]; exact h1
  · rw [hv, ← hy0]; exact h2

/-- A positive integer below 2^24 is a binary32 value, in the normal range. -/
theorem F32.unitsOfMag_nat {n : Nat} (h0 : 0 < n) (h : n < 2 ^ 24) :
    ∃ m, m < 0x7F800000 ∧ 2 ^ 23 ≤ m ∧ F32.unitsOfMag m = n * 2 ^ 149 := by
  have hk : Nat.log2 n ≤ 23 := by
    have := (Nat.log2_lt (by omega : n ≠ 0)).2 h
    omega
  have h1 : 2 ^ Nat.log2 n ≤ n := Nat.log2_self_le (by omega)
  have h2 : n < 2 ^ (Nat.log2 n + 1) := Nat.lt_log2_self
  generalize Nat.log2 n = k at *
  have hp : 2 ^ k * 2 ^ (23 - k) = 2 ^ 23 := by rw [← pow_add]; congr 1; omega
  have hs1 : 2 ^ 23 ≤ n * 2 ^ (23 - k) := by rw [← hp]; exact Nat.mul_le_mul_right _ h1
  have hs2 : n * 2 ^ (23 - k) < 2 ^ 24 := by
    have : n * 2 ^ (23 - k) < 2 ^ (k + 1) * 2 ^ (23 - k) :=
      Nat.mul_lt_mul_of_pos_right h2 (by positivity)
    rw [pow_succ] at this
    nlinarith
  refine ⟨(127 + k) * 2 ^ 23 + (n * 2 ^ (23 - k) - 2 ^ 23), by omega, by omega, ?_⟩
  unfold F32.unitsOfMag
  have hd : ((127 + k) * 2 ^ 23 + (n * 2 ^ (23 - k) - 2 ^ 23)) / 2 ^ 23 = 127 + k := by omega
  have hm : ((127 + k) * 2 ^ 23 + (n * 2 ^ (23 - k) - 2 ^ 23)) % 2 ^ 23 = n * 2 ^ (23 - k) - 2 ^ 23 := by
    omega
  have hs : 2 ^ 23 + (n * 2 ^ (23 - k) - 2 ^ 23) = n * 2 ^ (23 - k) := by omega
  have he : 2 ^ (23 - k) * 2 ^ (127 + k - 1) = 2 ^ 149 := by
    rw [← pow_add]
    exact congrArg (2 ^ ·) (by omega)
  rw [hd, hm, if_neg (by omega), hs, mul_assoc, he]

end Sys2Proof
end

