-- ==== Sys2Proof/Laws/Datapath.lean ====
section
/-! SUPPORT. The datapath's operations (Machine/Datapath.lean): how a computation runs, and bounds on the
results, whatever the configuration. -/

namespace Sys2Proof

/-- A computation that only returns draws nothing. -/
theorem Dp.run_pure {α : Type} (a : α) (k : Nat) : (pure a : Dp α) k = (a, k) := rfl

/-- A sequence runs its second part from the draws of its first. -/
theorem Dp.run_bind {α β : Type} (p : Dp α) (f : α → Dp β) (k : Nat) :
    (p >>= f) k = f (p k).1 (p k).2 := rfl

/-- As `run_bind`, when the first part's result is known. -/
theorem Dp.run_bind_of {α β : Type} {p : Dp α} {f : α → Dp β} {k k' : Nat} {a : α}
    (h : p k = (a, k')) : (p >>= f) k = f a k' := by
  rw [Dp.run_bind, h]

/-- A finite value that is not subnormal: a bound that flushing keeps. -/
def F32.isSolid (x : F32) : Bool := F32.isFinite x && !F32.isSubnormal x

theorem F32.isSolid_finite {x : F32} (h : F32.isSolid x = true) : F32.isFinite x = true := by
  simp [F32.isSolid] at h; exact h.1

theorem F32.value_zeroLike (x : F32) : F32.value (F32.zeroLike x) = 0 := by
  unfold F32.zeroLike; split <;> decide

theorem F32.isFinite_zeroLike (x : F32) : F32.isFinite (F32.zeroLike x) = true := by
  unfold F32.zeroLike; split <;> decide

/-- A bound that flushing keeps is zero or at least the smallest normal value. -/
theorem F32.units_of_solid {x : F32} (h : F32.isSolid x = true) :
    F32.units x = 0 ∨ 2 ^ 23 ≤ F32.units x := by
  simp only [F32.isSolid, F32.isSubnormal, Bool.and_eq_true, Bool.not_eq_true',
    decide_eq_false_iff_not] at h
  rcases Nat.eq_zero_or_pos (F32.mag x) with h0 | h0
  · left; rw [F32.units_eq, h0]; rfl
  · right
    rw [F32.units_eq]
    have h1 : 2 ^ 23 ≤ F32.mag x := by omega
    calc 2 ^ 23 = F32.unitsOfMag (2 ^ 23) := by decide
      _ ≤ _ := F32.unitsOfMag_strictMono.monotone h1

theorem F32.units_of_subnormal {x : F32} (h : F32.isSubnormal x = true) : F32.units x < 2 ^ 23 := by
  simp only [F32.isSubnormal, decide_eq_true_eq] at h
  rw [F32.units_eq]
  calc F32.unitsOfMag (F32.mag x) < F32.unitsOfMag (2 ^ 23) := F32.unitsOfMag_strictMono h.2
    _ = 2 ^ 23 := by decide

theorem Cfg.flush_finite (c : Cfg) {x : F32} (h : F32.isFinite x = true) :
    F32.isFinite (c.flush x) = true := by
  unfold Cfg.flush; split
  · exact F32.isFinite_zeroLike x
  · exact h

theorem Cfg.flush_solid (c : Cfg) {x : F32} (h : F32.isSolid x = true) : c.flush x = x := by
  simp only [F32.isSolid, Bool.and_eq_true, Bool.not_eq_true'] at h
  simp [Cfg.flush, h.2]

/-- Flushing keeps a value between bounds that are not subnormal. -/
theorem Cfg.flush_between (c : Cfg) {x lo hi : F32} (hlo : F32.isSolid lo = true)
    (hhi : F32.isSolid hi = true) (h1 : F32.value lo ≤ F32.value x)
    (h2 : F32.value x ≤ F32.value hi) :
    F32.value lo ≤ F32.value (c.flush x) ∧ F32.value (c.flush x) ≤ F32.value hi := by
  unfold Cfg.flush
  split
  · rename_i hs
    simp only [Bool.and_eq_true] at hs
    rw [F32.value_zeroLike]
    have hx := F32.units_of_subnormal hs.1
    have hxa := F32.value_le_units x
    have hxb := F32.neg_units_le_value x
    constructor
    · by_contra hc
      have hv := F32.value_of_nonneg (x := lo) (by omega)
      rcases F32.units_of_solid hlo with h | h <;> omega
    · by_contra hc
      have hv := F32.value_of_nonpos (x := hi) (by omega)
      rcases F32.units_of_solid hhi with h | h <;> omega
  · exact ⟨h1, h2⟩

/-- The result of an operation between bounds that are not subnormal stays between them, finite, and draws
nothing. -/
theorem Cfg.finish_between (c : Cfg) {o : Option F32} {lo hi : F32} (k : Nat)
    (hlo : F32.isSolid lo = true) (hhi : F32.isSolid hi = true)
    (h : ∃ r, o = some r ∧ F32.isFinite r = true ∧ F32.value lo ≤ F32.value r ∧
      F32.value r ≤ F32.value hi) :
    ∃ r, c.finish o k = (r, k) ∧ F32.isFinite r = true ∧ F32.value lo ≤ F32.value r ∧
      F32.value r ≤ F32.value hi := by
  obtain ⟨r, rfl, hf, h1, h2⟩ := h
  exact ⟨c.flush r, rfl, c.flush_finite hf, c.flush_between hlo hhi h1 h2⟩

/-- A sum that lies between two bounds is computed between them. -/
theorem Cfg.add_between (c : Cfg) {x y lo hi : F32} (k : Nat) (hx : F32.isFinite x = true)
    (hy : F32.isFinite y = true) (hlo : F32.isSolid lo = true) (hhi : F32.isSolid hi = true)
    (h1 : F32.value lo ≤ F32.value (c.flush x) + F32.value (c.flush y))
    (h2 : F32.value (c.flush x) + F32.value (c.flush y) ≤ F32.value hi) :
    ∃ r, c.add x y k = (r, k) ∧ F32.isFinite r = true ∧ F32.value lo ≤ F32.value r ∧
      F32.value r ≤ F32.value hi :=
  c.finish_between k hlo hhi (F32.add_between (c.flush_finite hx) (c.flush_finite hy)
    (F32.isSolid_finite hlo) (F32.isSolid_finite hhi) h1 h2)

/-- A difference that lies between two bounds is computed between them. -/
theorem Cfg.sub_between (c : Cfg) {x y lo hi : F32} (k : Nat) (hx : F32.isFinite x = true)
    (hy : F32.isFinite y = true) (hlo : F32.isSolid lo = true) (hhi : F32.isSolid hi = true)
    (h1 : F32.value lo ≤ F32.value (c.flush x) - F32.value (c.flush y))
    (h2 : F32.value (c.flush x) - F32.value (c.flush y) ≤ F32.value hi) :
    ∃ r, c.sub x y k = (r, k) ∧ F32.isFinite r = true ∧ F32.value lo ≤ F32.value r ∧
      F32.value r ≤ F32.value hi :=
  c.finish_between k hlo hhi (F32.sub_between (c.flush_finite hx) (c.flush_finite hy)
    (F32.isSolid_finite hlo) (F32.isSolid_finite hhi) h1 h2)

/-- A product that lies between two bounds is computed between them. -/
theorem Cfg.mul_between (c : Cfg) {x y lo hi : F32} (k : Nat) (hx : F32.isFinite x = true)
    (hy : F32.isFinite y = true) (hlo : F32.isSolid lo = true) (hhi : F32.isSolid hi = true)
    (h1 : F32.value lo * 2 ^ 149 ≤ F32.value (c.flush x) * F32.value (c.flush y))
    (h2 : F32.value (c.flush x) * F32.value (c.flush y) ≤ F32.value hi * 2 ^ 149) :
    ∃ r, c.mul x y k = (r, k) ∧ F32.isFinite r = true ∧ F32.value lo ≤ F32.value r ∧
      F32.value r ≤ F32.value hi :=
  c.finish_between k hlo hhi (F32.mul_between (c.flush_finite hx) (c.flush_finite hy)
    (F32.isSolid_finite hlo) (F32.isSolid_finite hhi) h1 h2)

/-- A quotient by a positive value that lies between two bounds is computed between them. -/
theorem Cfg.div_between (c : Cfg) {x y lo hi : F32} (k : Nat) (hx : F32.isFinite x = true)
    (hy : F32.isFinite y = true) (hpos : 0 < F32.value (c.flush y))
    (hlo : F32.isSolid lo = true) (hhi : F32.isSolid hi = true)
    (h1 : F32.value lo * F32.value (c.flush y) ≤ F32.value (c.flush x) * 2 ^ 149)
    (h2 : F32.value (c.flush x) * 2 ^ 149 ≤ F32.value hi * F32.value (c.flush y)) :
    ∃ r, c.div x y k = (r, k) ∧ F32.isFinite r = true ∧ F32.value lo ≤ F32.value r ∧
      F32.value r ≤ F32.value hi :=
  c.finish_between k hlo hhi (F32.div_between (c.flush_finite hx) (c.flush_finite hy) hpos
    (F32.isSolid_finite hlo) (F32.isSolid_finite hhi) h1 h2)

theorem F32.max_spec {x y : F32} (hx : F32.isNaN x = false) (hy : F32.isNaN y = false) :
    ∃ r, F32.max x y = some r ∧ (r = x ∨ r = y) ∧ F32.value x ≤ F32.value r ∧
      F32.value y ≤ F32.value r := by
  unfold F32.max
  simp only [hx, hy, Bool.or_self, Bool.false_eq_true, if_false]
  split
  · exact ⟨y, rfl, Or.inr rfl, by omega, le_refl _⟩
  · split
    · exact ⟨x, rfl, Or.inl rfl, le_refl _, by omega⟩
    · split
      · exact ⟨y, rfl, Or.inr rfl, by omega, by omega⟩
      · exact ⟨x, rfl, Or.inl rfl, by omega, by omega⟩

theorem F32.min_spec {x y : F32} (hx : F32.isNaN x = false) (hy : F32.isNaN y = false) :
    ∃ r, F32.min x y = some r ∧ (r = x ∨ r = y) ∧ F32.value r ≤ F32.value x ∧
      F32.value r ≤ F32.value y := by
  unfold F32.min
  simp only [hx, hy, Bool.or_self, Bool.false_eq_true, if_false]
  split
  · exact ⟨x, rfl, Or.inl rfl, le_refl _, by omega⟩
  · split
    · exact ⟨y, rfl, Or.inr rfl, by omega, le_refl _⟩
    · split
      · exact ⟨x, rfl, Or.inl rfl, by omega, by omega⟩
      · exact ⟨y, rfl, Or.inr rfl, by omega, by omega⟩

theorem F32.zeroLike_zeroLike (x : F32) : F32.isSubnormal (F32.zeroLike x) = false := by
  unfold F32.zeroLike; split <;> decide

theorem Cfg.flush_flush (c : Cfg) (x : F32) : c.flush (c.flush x) = c.flush x := by
  unfold Cfg.flush
  split
  · simp [F32.zeroLike_zeroLike]
  · rfl

theorem Cfg.flush_isNaN (c : Cfg) (x : F32) : F32.isNaN (c.flush x) = F32.isNaN x := by
  unfold Cfg.flush
  split
  · rename_i h
    simp only [Bool.and_eq_true] at h
    have h1 : F32.isNaN (F32.zeroLike x) = false := by unfold F32.zeroLike; split <;> decide
    rw [h1]
    have h2 := h.1
    simp only [F32.isSubnormal, decide_eq_true_eq] at h2
    symm
    simp only [F32.isNaN, decide_eq_false_iff_not]
    omega
  · rfl

/-- Everything a clamp can do to values that are not NaNs (R13): it draws nothing, and its result is the
operand or a bound, not above the upper bound, and not below the lower one where the bounds are in
order. -/
theorem Cfg.clamp_spec (c : Cfg) {v lo hi : F32} (k : Nat) (hv : F32.isNaN v = false)
    (hlo : F32.isNaN lo = false) (hhi : F32.isNaN hi = false) :
    ∃ r, c.clamp v lo hi k = (r, k) ∧
      (r = c.flush v ∨ r = c.flush lo ∨ r = c.flush hi) ∧
      F32.value r ≤ F32.value (c.flush hi) ∧
      (F32.value (c.flush lo) ≤ F32.value (c.flush hi) → F32.value (c.flush lo) ≤ F32.value r) ∧
      (F32.value (c.flush lo) ≤ F32.value (c.flush v) →
        F32.value (c.flush v) ≤ F32.value (c.flush hi) → F32.value r = F32.value (c.flush v)) := by
  obtain ⟨m, hm, hmr, hm1, hm2⟩ := F32.max_spec (x := c.flush v) (y := c.flush lo)
    (by rw [c.flush_isNaN]; exact hv) (by rw [c.flush_isNaN]; exact hlo)
  have hmm : c.flush (c.flush m) = m := by
    rcases hmr with h | h <;> rw [h] <;> simp only [c.flush_flush]
  have hmn : F32.isNaN m = false := by
    rcases hmr with h | h <;> rw [h, c.flush_isNaN] <;> assumption
  obtain ⟨r, hr, hrr, hr1, hr2⟩ := F32.min_spec (x := m) (y := c.flush hi) hmn
    (by rw [c.flush_isNaN]; exact hhi)
  have hrf : c.flush r = r := by
    rcases hrr with h | h
    · rw [h]; rcases hmr with h | h <;> rw [h] <;> simp only [c.flush_flush]
    · rw [h, c.flush_flush]
  refine ⟨r, ?_, ?_, ?_, ?_, ?_⟩
  · show (c.finish (F32.max (c.flush v) (c.flush lo)) >>= fun m =>
      c.finish (F32.min (c.flush m) (c.flush hi))) k = _
    rw [hm, Dp.run_bind]
    show c.finish (F32.min (c.flush (c.flush m)) (c.flush hi)) k = _
    rw [hmm, hr]
    show (c.flush r, k) = _
    rw [hrf]
  · rcases hrr with h | h
    · rcases hmr with h' | h'
      · exact Or.inl (h.trans h')
      · exact Or.inr (Or.inl (h.trans h'))
    · exact Or.inr (Or.inr h)
  · exact hr2
  · intro hle
    rcases hrr with h | h <;> rw [h] <;> omega
  · intro h1 h2
    have hmv : F32.value m = F32.value (c.flush v) := by
      rcases hmr with h | h
      · rw [h]
      · rw [h] at hm1 ⊢; omega
    rcases hrr with h | h
    · rw [h, hmv]
    · rw [h] at hr1 ⊢; omega

/-- A clamp of a finite value between finite bounds is finite. -/
theorem Cfg.clamp_finite (c : Cfg) {v lo hi : F32} (k : Nat) (hv : F32.isFinite v = true)
    (hlo : F32.isFinite lo = true) (hhi : F32.isFinite hi = true) :
    F32.isFinite (c.clamp v lo hi k).1 = true := by
  obtain ⟨r, hr, hc, -⟩ := c.clamp_spec k (F32.not_isNaN_of_finite hv)
    (F32.not_isNaN_of_finite hlo) (F32.not_isNaN_of_finite hhi)
  rw [hr]
  rcases hc with h | h | h <;> rw [h] <;> exact c.flush_finite (by assumption)

/-- `f32(n)` is exact below 2^24 (R8), finite and not subnormal. -/
theorem F32.ofNat_spec {n : Nat} (h : n < 2 ^ 24) :
    F32.value (F32.ofNat n) = (n : Int) * 2 ^ 149 ∧
      F32.isFinite (F32.ofNat n) = true ∧ F32.isSolid (F32.ofNat n) = true := by
  rcases Nat.eq_zero_or_pos n with h0 | h0
  · subst h0; decide
  · obtain ⟨m, hm, hm', hu⟩ := F32.unitsOfMag_nat h0 h
    have he : F32.ofNat n = F32.pack false m := by
      unfold F32.ofNat
      rw [← hu, ← Nat.mul_one (F32.unitsOfMag m), F32.roundUnits_exact m 1 (by omega) hm]
    have hmag : F32.mag (F32.ofNat n) = m := by rw [he]; exact F32.mag_pack _ _ (by omega)
    have hf : F32.isFinite (F32.ofNat n) = true := by rw [F32.isFinite_iff, hmag]; exact hm
    refine ⟨?_, hf, ?_⟩
    · rw [he, F32.value_pack _ _ (by omega), if_neg (by simp), hu]; push_cast; rfl
    · unfold F32.isSolid F32.isSubnormal
      rw [hf, hmag]
      simp
      omega

/-- Flushing keeps a zero's value. -/
theorem Cfg.flush_value_zero (c : Cfg) {x : F32} (h : F32.value x = 0) :
    F32.value (c.flush x) = 0 := by
  have hz : F32.value F32.zero = 0 := by decide
  have := c.flush_between (x := x) (lo := F32.zero) (hi := F32.zero) (by decide) (by decide)
    (by rw [hz, h]) (by rw [hz, h])
  rw [hz] at this
  omega

/-- A product with a zero is a zero, of some sign. -/
theorem Cfg.mul_zero_value (c : Cfg) {x y : F32} (k : Nat) (hx : F32.isFinite x = true)
    (hy : F32.isFinite y = true) (hz : F32.value y = 0) :
    ∃ r, c.mul x y k = (r, k) ∧ F32.isFinite r = true ∧ F32.value r = 0 := by
  have h0 : F32.value F32.zero = 0 := by decide
  have hv : F32.value (c.flush x) * F32.value (c.flush y) = 0 := by
    rw [c.flush_value_zero hz, Int.mul_zero]
  obtain ⟨r, h1, h2, h3, h4⟩ := c.mul_between (lo := F32.zero) (hi := F32.zero) k hx hy
    (by decide) (by decide) (by rw [hv, h0]; decide) (by rw [hv, h0]; decide)
  rw [h0] at h3 h4
  exact ⟨r, h1, h2, by omega⟩

/-- An operation on operands that flushing keeps, whose result flushing keeps, draws nothing. -/
theorem Cfg.finish_solid (c : Cfg) {op : F32 → F32 → Option F32} {x y r : F32} {n : Nat}
    (hx : F32.isSolid x = true) (hy : F32.isSolid y = true) (hr : F32.isSolid r = true)
    (h : op x y = some r) : c.finish (op (c.flush x) (c.flush y)) n = (r, n) := by
  rw [c.flush_solid hx, c.flush_solid hy, h]
  show (c.flush r, n) = _
  rw [c.flush_solid hr]

end Sys2Proof
end

