-- ==== Sys2Proof/Laws/Stages.lean ====
section
/-! SUPPORT. One run lemma per shared stage of the units: given what each of its operations computes, what the
stage computes. A proof names the intermediate results and never unfolds a stage. -/

namespace Sys2Proof.Machine

theorem lp1_run {c : Cfg} {y a x d p r : F32} {n n1 n2 n3 : Nat} (h1 : c.sub x y n = (d, n1))
    (h2 : c.mul a d n1 = (p, n2)) (h3 : c.add y p n2 = (r, n3)) : lp1 c y a x n = (r, n3) := by
  unfold lp1
  rw [Dp.run_bind_of h1, Dp.run_bind_of h2, h3]

theorem hp1_run {c : Cfg} {y a x y' r : F32} {n n1 n2 : Nat} (h1 : lp1 c y a x n = (y', n1))
    (h2 : c.sub x y' n1 = (r, n2)) : hp1 c y a x n = ((r, y'), n2) := by
  unfold hp1
  rw [Dp.run_bind_of h1, Dp.run_bind_of h2, Dp.run_pure]

theorem bq2_run {c : Cfg} {k : BqCoef} {h : BqHist} {x p0 p1 a1 p2 a2 p3 a3 p4 y : F32}
    {n n0 n1 n2 n3 n4 n5 n6 n7 n8 : Nat} (h0 : c.mul k.b0 x n = (p0, n0))
    (h1 : c.mul k.b1 h.x1 n0 = (p1, n1)) (h2 : c.add p0 p1 n1 = (a1, n2))
    (h3 : c.mul k.b2 h.x2 n2 = (p2, n3)) (h4 : c.add a1 p2 n3 = (a2, n4))
    (h5 : c.mul k.a1 h.y1 n4 = (p3, n5)) (h6 : c.sub a2 p3 n5 = (a3, n6))
    (h7 : c.mul k.a2 h.y2 n6 = (p4, n7)) (h8 : c.sub a3 p4 n7 = (y, n8)) :
    bq2 c k h x n = ((y, { x1 := x, x2 := h.x1, y1 := y, y2 := h.y1 }), n8) := by
  unfold bq2
  rw [Dp.run_bind_of h0, Dp.run_bind_of h1, Dp.run_bind_of h2, Dp.run_bind_of h3,
    Dp.run_bind_of h4, Dp.run_bind_of h5, Dp.run_bind_of h6, Dp.run_bind_of h7, Dp.run_bind_of
    h8, Dp.run_pure]

theorem bqPre_run {c : Cfg} {fc q gdb fs e w w0 q2 alpha : F32} {n n1 n2 n3 n4 n5 : Nat}
    (h1 : c.div gdb F32.forty n = (e, n1)) (h2 : c.mul F32.twoPi fc n1 = (w, n2))
    (h3 : c.div w fs n2 = (w0, n3)) (h4 : c.mul F32.two q n3 = (q2, n4))
    (h5 : c.div (c.sin w0) q2 n4 = (alpha, n5)) :
    bqPre c fc q gdb fs n = ((c.pow10 e, c.cos w0, c.sin w0, alpha), n5) := by
  unfold bqPre
  rw [Dp.run_bind_of h1, Dp.run_bind_of h2, Dp.run_bind_of h3, Dp.run_bind_of h4,
    Dp.run_bind_of h5, Dp.run_pure]

theorem bqNorm_run {c : Cfg} {b0 b1 b2 a0 a1 a2 m0 m1 m2 m3 m4 : F32} {n n0 n1 n2 n3 n4 : Nat}
    (h0 : c.div b0 a0 n = (m0, n0)) (h1 : c.div b1 a0 n0 = (m1, n1)) (h2 : c.div b2 a0 n1 = (m2, n2))
    (h3 : c.div a1 a0 n2 = (m3, n3)) (h4 : c.div a2 a0 n3 = (m4, n4)) :
    bqNorm c b0 b1 b2 a0 a1 a2 n = (⟨m0, m1, m2, m3, m4⟩, n4) := by
  unfold bqNorm
  rw [Dp.run_bind_of h0, Dp.run_bind_of h1, Dp.run_bind_of h2, Dp.run_bind_of h3,
    Dp.run_bind_of h4, Dp.run_pure]

theorem setFreq_run {c : Cfg} {o : Osc} {hz fs hi f inc : F32} {n n1 n2 n3 : Nat}
    (h1 : c.mul fs F32.half n = (hi, n1)) (h2 : c.clamp hz F32.zero hi n1 = (f, n2))
    (h3 : c.div f fs n2 = (inc, n3)) :
    setFreq c o hz fs n = ({ o with freq := f, inc := inc }, n3) := by
  unfold setFreq
  rw [Dp.run_bind_of h1, Dp.run_bind_of h2, Dp.run_bind_of h3, Dp.run_pure]

theorem setDepth_run {c : Cfg} {o : Osc} {d k depth amp : F32} {n n1 n2 : Nat}
    (h1 : c.clampUnit d n = (depth, n1)) (h2 : c.mul depth k n1 = (amp, n2)) :
    setDepth c o d k n = ((depth, { o with amp := amp }), n2) := by
  unfold setDepth
  rw [Dp.run_bind_of h1, Dp.run_bind_of h2, Dp.run_pure]

theorem advance_run_wrap {c : Cfg} {o : Osc} {t p : F32} {n n1 n2 : Nat}
    (h1 : c.add o.phase o.inc n = (t, n1)) (h2 : c.le F32.one t = true)
    (h3 : c.sub t F32.one n1 = (p, n2)) :
    advance c o n =
      ({ o with phase := p, eoc := true, eorh := c.lt o.phase F32.half && c.le F32.half t }, n2) := by
  unfold advance
  rw [Dp.run_bind_of h1]
  show (ite _ _ _ : Dp Osc) n1 = _
  rw [if_pos h2, Dp.run_bind_of h3, Dp.run_pure]

theorem advance_run_stay {c : Cfg} {o : Osc} {t : F32} {n n1 : Nat}
    (h1 : c.add o.phase o.inc n = (t, n1)) (h2 : c.le F32.one t = false) :
    advance c o n =
      ({ o with phase := t, eoc := false, eorh := c.lt o.phase F32.half && c.le F32.half t }, n1) := by
  unfold advance
  rw [Dp.run_bind_of h1]
  show (ite _ _ _ : Dp Osc) n1 = _
  rw [if_neg (by simp [h2]), Dp.run_pure]

theorem shape_run_sine {c : Cfg} {φ x : F32} {n n1 : Nat} (h1 : c.mul F32.twoPi φ n = (x, n1)) :
    shape c .sine φ n = (c.sin x, n1) := by
  show (c.mul F32.twoPi φ >>= _ : Dp F32) n = _
  rw [Dp.run_bind_of h1, Dp.run_pure]

theorem shape_run_rsquare {c : Cfg} {φ x y r : F32} {n n1 n2 n3 : Nat}
    (h1 : c.mul F32.twoPi φ n = (x, n1)) (h2 : c.mul c.rsqK (c.sin x) n1 = (y, n2))
    (h3 : c.div (c.atan y) (c.atan c.rsqK) n2 = (r, n3)) : shape c .rsquare φ n = (r, n3) := by
  show (c.mul F32.twoPi φ >>= _ : Dp F32) n = _
  rw [Dp.run_bind_of h1, Dp.run_bind_of h2, h3]

theorem shape_run_triangle {c : Cfg} {φ d t r : F32} {n n1 n2 n3 : Nat}
    (h1 : c.sub φ F32.half n = (d, n1)) (h2 : c.mul F32.four (F32.abs d) n1 = (t, n2))
    (h3 : c.sub F32.one t n2 = (r, n3)) : shape c .triangle φ n = (r, n3) := by
  show (c.sub φ F32.half >>= _ : Dp F32) n = _
  rw [Dp.run_bind_of h1, Dp.run_bind_of h2, h3]

theorem oscStep_run {c : Cfg} {o o' : Osc} {s out : F32} {n n1 n2 n3 : Nat}
    (h1 : shape c o.wave o.phase n = (s, n1)) (h2 : c.mul o.amp s n1 = (out, n2))
    (h3 : advance c o n2 = (o', n3)) : oscStep c o n = ((out, o'), n3) := by
  unfold oscStep
  rw [Dp.run_bind_of h1, Dp.run_bind_of h2, Dp.run_bind_of h3, Dp.run_pure]

theorem lineRead_run {c : Cfg} {len : Nat} {l : Line} {d f e p r : F32} {n n1 n2 n3 n4 : Nat}
    (h1 : c.sub d (F32.ofNat (F32.floorNat d)) n = (f, n1))
    (h2 : c.sub (l.hist len (F32.floorNat d + 1)) (l.hist len (F32.floorNat d)) n1 = (e, n2))
    (h3 : c.mul e f n2 = (p, n3)) (h4 : c.add (l.hist len (F32.floorNat d)) p n3 = (r, n4)) :
    lineRead c len l d n = (r, n4) := by
  unfold lineRead
  rw [Dp.run_bind_of h1, Dp.run_bind_of h2, Dp.run_bind_of h3, h4]

theorem allpass_run {c : Cfg} {len : Nat} {l : Line} {g x q t r y : F32} {n n1 n2 n3 n4 : Nat}
    (h1 : c.mul g (l.hist (len + 1) len) n = (q, n1)) (h2 : c.sub x q n1 = (t, n2))
    (h3 : c.mul g t n2 = (r, n3)) (h4 : c.add (l.hist (len + 1) len) r n3 = (y, n4)) :
    allpass c len l g x n = ((y, l.push (len + 1) t), n4) := by
  unfold allpass
  rw [Dp.run_bind_of h1, Dp.run_bind_of h2, Dp.run_bind_of h3, Dp.run_bind_of h4, Dp.run_pure]

theorem eightDp_run {α : Type} {f : Fin 8 → Dp α} {v : Eight α}
    {n n0 n1 n2 n3 n4 n5 n6 n7 : Nat} (h0 : f 0 n = (v.a0, n0)) (h1 : f 1 n0 = (v.a1, n1))
    (h2 : f 2 n1 = (v.a2, n2)) (h3 : f 3 n2 = (v.a3, n3)) (h4 : f 4 n3 = (v.a4, n4))
    (h5 : f 5 n4 = (v.a5, n5)) (h6 : f 6 n5 = (v.a6, n6)) (h7 : f 7 n6 = (v.a7, n7)) :
    eightDp f n = (v, n7) := by
  unfold eightDp
  rw [Dp.run_bind_of h0, Dp.run_bind_of h1, Dp.run_bind_of h2, Dp.run_bind_of h3,
    Dp.run_bind_of h4, Dp.run_bind_of h5, Dp.run_bind_of h6, Dp.run_bind_of h7, Dp.run_pure]

/-- Eight computations that draw nothing, each with its result. -/
theorem eightDp_gives {α : Type} {f : Fin 8 → Dp α} {v : Eight α} {n : Nat}
    (h : ∀ k, f k n = (v.get k, n)) : eightDp f n = (v, n) :=
  eightDp_run (h 0) (h 1) (h 2) (h 3) (h 4) (h 5) (h 6) (h 7)

@[simp] theorem Eight.get_make {α : Type} (f : Fin 8 → α) (k : Fin 8) : (Eight.make f).get k = f k := by
  fin_cases k <;> rfl

@[simp] theorem Eight.get_all {α : Type} (x : α) (k : Fin 8) : (Eight.all x).get k = x := by
  fin_cases k <;> rfl

theorem mixLaw_run {c : Cfg} {mix x w d p q r : F32} {n n1 n2 n3 n4 : Nat}
    (h1 : c.sub F32.one mix n = (d, n1)) (h2 : c.mul d x n1 = (p, n2)) (h3 : c.mul mix w n2 = (q, n3))
    (h4 : c.add p q n3 = (r, n4)) : mixLaw c mix x w n = (r, n4) := by
  unfold mixLaw
  rw [Dp.run_bind_of h1, Dp.run_bind_of h2, Dp.run_bind_of h3, h4]

theorem monoInput_run {c : Cfg} {l r t x : F32} {n n1 n2 : Nat} (h1 : c.add l r n = (t, n1))
    (h2 : c.mul t F32.half n1 = (x, n2)) : monoInput c l r n = (x, n2) := by
  unfold monoInput
  rw [Dp.run_bind_of h1, h2]

theorem hallTap_run {c : Cfg} {p q r s t1 t2 t3 w : F32} {n n1 n2 n3 n4 : Nat}
    (h1 : c.sub p q n = (t1, n1)) (h2 : c.add t1 r n1 = (t2, n2)) (h3 : c.sub t2 s n2 = (t3, n3))
    (h4 : c.mul t3 c.rvhOutGain n3 = (w, n4)) : hallTap c p q r s n = (w, n4) := by
  unfold hallTap
  rw [Dp.run_bind_of h1, Dp.run_bind_of h2, Dp.run_bind_of h3, h4]

theorem springWet_run {c : Cfg} {y t1 t2 a1 s1 a2 s2 w : F32} {n n1 n2 n3 n4 n5 : Nat}
    (h1 : c.mul (c.rvsTapGain 0) t1 n = (a1, n1)) (h2 : c.add y a1 n1 = (s1, n2))
    (h3 : c.mul (c.rvsTapGain 1) t2 n2 = (a2, n3)) (h4 : c.add s1 a2 n3 = (s2, n4))
    (h5 : c.mul s2 c.rvsOutGain n4 = (w, n5)) : springWet c y t1 t2 n = (w, n5) := by
  unfold springWet
  rw [Dp.run_bind_of h1, Dp.run_bind_of h2, Dp.run_bind_of h3, Dp.run_bind_of h4, h5]

theorem dlyDelay_run {c : Cfg} {u : DlyUnit} {d p dc D : F32} {n n1 n2 n3 n4 : Nat}
    (h1 : c.sub u.dt u.dc n = (d, n1)) (h2 : c.mul c.dlySmooth d n1 = (p, n2))
    (h3 : c.add u.dc p n2 = (dc, n3)) (h4 : c.clamp dc F32.one u.dmax n3 = (D, n4)) :
    dlyDelay c u n = ((dc, D), n4) := by
  unfold dlyDelay
  rw [Dp.run_bind_of h1, Dp.run_bind_of h2, Dp.run_bind_of h3, Dp.run_bind_of h4, Dp.run_pure]

theorem hallPd_run {c : Cfg} {v q : F32} {n n1 : Nat}
    (h1 : c.mul v (F32.ofNat c.rvhPredelayMax) n = (q, n1)) :
    hallPd c v n = (F32.roundEvenNat q, n1) := by
  unfold hallPd
  rw [Dp.run_bind_of h1, Dp.run_pure]

theorem bqClamps_run {c : Cfg} {fc q gdb fs hi fc' q' g' : F32} {n n1 n2 n3 n4 : Nat}
    (h1 : c.mul c.bqFcMaxFrac fs n = (hi, n1)) (h2 : c.clamp fc c.bqFcMin hi n1 = (fc', n2))
    (h3 : c.clamp q c.bqQMin c.bqQMax n2 = (q', n3))
    (h4 : c.clamp gdb c.bqGainMinDb c.bqGainMaxDb n3 = (g', n4)) :
    bqClamps c fc q gdb fs n = ((fc', q', g'), n4) := by
  unfold bqClamps
  rw [Dp.run_bind_of h1, Dp.run_bind_of h2, Dp.run_bind_of h3, Dp.run_bind_of h4, Dp.run_pure]

theorem peakClamped_run {c : Cfg} {fc q gdb fs fc' q' g' : F32} {k : BqCoef} {n n1 n2 : Nat}
    (h1 : bqClamps c fc q gdb fs n = ((fc', q', g'), n1))
    (h2 : peakDesign c fc' q' g' fs n1 = (k, n2)) : peakClamped c fc q gdb fs n = (k, n2) := by
  unfold peakClamped
  rw [Dp.run_bind_of h1]
  exact h2

theorem shelfClamped_run {c : Cfg} {fc q gdb fs fc' q' g' : F32} {k : BqCoef} {n n1 n2 : Nat}
    (h1 : bqClamps c fc q gdb fs n = ((fc', q', g'), n1))
    (h2 : shelfDesign c fc' q' g' fs n1 = (k, n2)) : shelfClamped c fc q gdb fs n = (k, n2) := by
  unfold shelfClamped
  rw [Dp.run_bind_of h1]
  exact h2

theorem opCoefClamped_run {c : Cfg} {fc fs hi fc' t t' a : F32} {n n1 n2 n3 n4 n5 : Nat}
    (h1 : c.mul c.opFcMaxFrac fs n = (hi, n1)) (h2 : c.clamp fc c.opFcMin hi n1 = (fc', n2))
    (h3 : c.mul F32.twoPi fc' n2 = (t, n3)) (h4 : c.div t fs n3 = (t', n4))
    (h5 : c.sub F32.one (c.exp (F32.neg t')) n4 = (a, n5)) :
    opCoefClamped c fc fs n = (a, n5) := by
  unfold opCoefClamped opCoef
  rw [Dp.run_bind_of h1, Dp.run_bind_of h2, Dp.run_bind_of h3, Dp.run_bind_of h4]
  exact h5

/-- The seven coefficient sets, in the order of R249. -/
theorem trhCoefs_run {c : Cfg} {fs aLo aHi aHp aLp : F32} {ls pk1 pk2 : BqCoef}
    {n n1 n2 n3 n4 n5 n6 n7 : Nat} (h1 : opCoefClamped c Config.trhLowFc fs n = (aLo, n1))
    (h2 : opCoefClamped c Config.trhHighFc fs n1 = (aHi, n2))
    (h3 : opCoefClamped c c.trhEqHpFc fs n2 = (aHp, n3))
    (h4 : opCoefClamped c c.trhEqLpFc fs n3 = (aLp, n4))
    (h5 : shelfClamped c c.trhEqLs.fc c.trhEqLs.q c.trhEqLs.gainDb fs n4 = (ls, n5))
    (h6 : peakClamped c c.trhEqPk1.fc c.trhEqPk1.q c.trhEqPk1.gainDb fs n5 = (pk1, n6))
    (h7 : peakClamped c c.trhEqPk2.fc c.trhEqPk2.q c.trhEqPk2.gainDb fs n6 = (pk2, n7)) :
    trhCoefs c fs n = (⟨aLo, aHi, aHp, aLp, ls, pk1, pk2⟩, n7) := by
  unfold trhCoefs
  rw [Dp.run_bind_of h1, Dp.run_bind_of h2, Dp.run_bind_of h3, Dp.run_bind_of h4,
    Dp.run_bind_of h5, Dp.run_bind_of h6, Dp.run_bind_of h7, Dp.run_pure]

theorem hallDelay_run_modulated {c : Cfg} {dpos : Fin 3} {tri e d : F32} {k : Fin 8} {n n1 n2 : Nat}
    (hk : c.rvhModMask.getLsbD k.val = true) (h1 : c.mul (c.rvhDepthTable dpos) tri n = (e, n1))
    (h2 : c.add (F32.ofNat (c.rvhLen k)) e n1 = (d, n2)) : hallDelay c dpos tri k n = (d, n2) := by
  unfold hallDelay
  rw [if_pos hk, Dp.run_bind_of h1, h2]

theorem hallDelay_run_fixed {c : Cfg} {dpos : Fin 3} {tri : F32} {k : Fin 8} {n : Nat}
    (hk : c.rvhModMask.getLsbD k.val = false) :
    hallDelay c dpos tri k n = (F32.ofNat (c.rvhLen k), n) := by
  unfold hallDelay
  rw [if_neg (Bool.eq_false_iff.1 hk)]
  rfl

theorem dlyStep_run {c : Cfg} {u : DlyUnit} {x y dc D rL rR qL vL qR vR : F32}
    {n n1 n2 n3 n4 n5 n6 n7 : Nat} (h0 : dlyDelay c u n = ((dc, D), n1))
    (hr : lineReadable (dlyLen c) D = true) (h1 : lineRead c (dlyLen c) u.lineL D n1 = (rL, n2))
    (h2 : lineRead c (dlyLen c) u.lineR D n2 = (rR, n3)) (h3 : c.mul u.fb rL n3 = (qL, n4))
    (h4 : c.add x qL n4 = (vL, n5)) (h5 : c.mul u.fb rR n5 = (qR, n6))
    (h6 : c.add y qR n6 = (vR, n7)) :
    dlyStep c u x y n =
      (some
        ({ u with
            dc := dc, lineL := u.lineL.push (dlyLen c) vL, lineR := u.lineR.push (dlyLen c) vR },
          rL, rR), n7) := by
  unfold dlyStep
  rw [Dp.run_bind_of h0]
  show (ite _ _ _ : Dp _) _ = _
  rw [if_pos hr, Dp.run_bind_of h1, Dp.run_bind_of h2, Dp.run_bind_of h3, Dp.run_bind_of h4,
    Dp.run_bind_of h5, Dp.run_bind_of h6, Dp.run_pure]

theorem trmStep_run {c : Cfg} {u : TrmUnit} {x y lfo t b g l r : F32} {o : Osc}
    {n n1 n2 n3 n4 n5 n6 : Nat} (h1 : oscStep c u.o n = ((lfo, o), n1))
    (h2 : c.mul u.depth F32.half n1 = (t, n2)) (h3 : c.sub F32.one t n2 = (b, n3))
    (h4 : c.add b lfo n3 = (g, n4)) (h5 : c.mul x g n4 = (l, n5)) (h6 : c.mul y g n5 = (r, n6)) :
    trmStep c u x y n = (({ u with o := o, last := lfo }, l, r), n6) := by
  unfold trmStep
  rw [Dp.run_bind_of h1]
  show (c.mul u.depth F32.half >>= _ : Dp _) n1 = _
  rw [Dp.run_bind_of h2, Dp.run_bind_of h3, Dp.run_bind_of h4,
    Dp.run_bind_of h5, Dp.run_bind_of h6, Dp.run_pure]

theorem trhEq_run {c : Cfg} {k : TrhCoef} {ch : TrhChan} {m e1 e1' e2 e3 e4 y : F32}
    {s3 s4 s5 : BqHist} {n n1 n2 n3 n4 n5 : Nat}
    (h1 : hp1 c ch.eqhp k.aEqhp m n = ((e1, e1'), n1)) (h2 : lp1 c ch.eqlp k.aEqlp e1 n1 = (e2, n2))
    (h3 : bq2 c k.ls ch.eqls e2 n2 = ((e3, s3), n3))
    (h4 : bq2 c k.pk1 ch.eqpk1 e3 n3 = ((e4, s4), n4))
    (h5 : bq2 c k.pk2 ch.eqpk2 e4 n4 = ((y, s5), n5)) :
    trhEq c k ch m n =
      ((y, { ch with eqhp := e1', eqlp := e2, eqls := s3, eqpk1 := s4, eqpk2 := s5 }), n5) := by
  unfold trhEq
  rw [Dp.run_bind_of h1]
  show (lp1 c ch.eqlp k.aEqlp e1 >>= _ : Dp _) n1 = _
  rw [Dp.run_bind_of h2, Dp.run_bind_of h3]
  show (bq2 c k.pk1 ch.eqpk1 e3 >>= _ : Dp _) n3 = _
  rw [Dp.run_bind_of h4]
  show (bq2 c k.pk2 ch.eqpk2 e4 >>= _ : Dp _) n4 = _
  rw [Dp.run_bind_of h5]
  rfl

theorem trhChannel_run {c : Cfg} {k : TrhCoef} {lfo x lo hi hi' gp gm a b m : F32} {ch : TrhChan}
    {r : F32 × TrhChan} {n n1 n2 n3 n4 n5 n6 n7 n8 : Nat} (h1 : lp1 c ch.lo k.aLo x n = (lo, n1))
    (h2 : hp1 c ch.hi k.aHi x n1 = ((hi, hi'), n2)) (h3 : c.add F32.one lfo n2 = (gp, n3))
    (h4 : c.sub F32.one lfo n3 = (gm, n4)) (h5 : c.mul lo gp n4 = (a, n5))
    (h6 : c.mul hi gm n5 = (b, n6)) (h7 : c.add a b n6 = (m, n7))
    (h8 : trhEq c k { ch with lo := lo, hi := hi' } m n7 = (r, n8)) :
    trhChannel c k lfo ch x n = (r, n8) := by
  unfold trhChannel
  rw [Dp.run_bind_of h1, Dp.run_bind_of h2]
  show (c.add F32.one lfo >>= _ : Dp _) n2 = _
  rw [Dp.run_bind_of h3, Dp.run_bind_of h4, Dp.run_bind_of h5, Dp.run_bind_of h6,
    Dp.run_bind_of h7]
  exact h8

theorem trhStep_run {c : Cfg} {u : TrhUnit} {x y lfo l r : F32} {o : Osc} {chL chR : TrhChan}
    {n n1 n2 n3 : Nat} (h1 : oscStep c u.o n = ((lfo, o), n1))
    (h2 : trhChannel c u.k lfo u.chL x n1 = ((l, chL), n2))
    (h3 : trhChannel c u.k lfo u.chR y n2 = ((r, chR), n3)) :
    trhStep c u x y n = (({ u with o := o, last := lfo, chL := chL, chR := chR }, l, r), n3) := by
  unfold trhStep
  rw [Dp.run_bind_of h1]
  show (trhChannel c u.k lfo u.chL x >>= _ : Dp _) n1 = _
  rw [Dp.run_bind_of h2]
  show (trhChannel c u.k lfo u.chR y >>= _ : Dp _) n2 = _
  rw [Dp.run_bind_of h3]
  rfl

theorem hallDelays_run {c : Cfg} {u : RvhUnit} {tri : F32} {o : Osc} {ds : Eight F32}
    {n n1 n2 : Nat} (h1 : oscStep c u.o n = ((tri, o), n1))
    (h2 : eightDp (hallDelay c u.p.dpos tri) n1 = (ds, n2)) :
    hallDelays c u n = ((o, ds), n2) := by
  unfold hallDelays
  rw [Dp.run_bind_of h1]
  show (eightDp (hallDelay c u.p.dpos tri) >>= _ : Dp _) n1 = _
  rw [Dp.run_bind_of h2]
  rfl

/-- `yf` holds each line's output and its damped value. -/
theorem hallNetwork_run {c : Cfg} {u : RvhUnit} {ds m : Eight F32} {v wetL wetR : F32}
    {yf : Eight (F32 × F32)} {ln : Eight Line} {n n1 n2 n3 n4 n5 : Nat}
    (h1 : eightDp (fun k => do
        let y ← lineRead c (hallLen c k) (u.ln.get k) (ds.get k)
        let f ← lp1 c (u.z.get k) u.ad y
        pure (y, f)) n = (yf, n1))
    (h2 : had8 c (Eight.make fun k => (yf.get k).2) n1 = (m, n2))
    (h3 : eightDp (fun k => do
        let r ← c.mul u.g (m.get k)
        let x ← c.add v r
        pure ((u.ln.get k).push (hallLen c k) x)) n2 = (ln, n3))
    (h4 : hallTap c (yf.get 0).1 (yf.get 2).1 (yf.get 4).1 (yf.get 6).1 n3 = (wetL, n4))
    (h5 : hallTap c (yf.get 1).1 (yf.get 3).1 (yf.get 5).1 (yf.get 7).1 n4 = (wetR, n5)) :
    hallNetwork c u ds v n = ((ln, Eight.make fun k => (yf.get k).2, wetL, wetR), n5) := by
  unfold hallNetwork
  rw [Dp.run_bind_of h1]
  show (had8 c (Eight.make fun k => (yf.get k).2) >>= _ : Dp _) n1 = _
  rw [Dp.run_bind_of h2, Dp.run_bind_of h3, Dp.run_bind_of h4, Dp.run_bind_of h5, Dp.run_pure]

theorem rvhStep_run {c : Cfg} {u : RvhUnit} {inL inR x a v wetL wetR outL outR : F32} {o : Osc}
    {ap0 ap1 : Line} {ds z : Eight F32} {ln : Eight Line} {n n1 n2 n3 n4 n5 n6 n7 : Nat}
    (h1 : monoInput c inL inR n = (x, n1))
    (h2 : allpass c (c.rvhApLen 0) u.ap0 (c.rvhApCoef 0) (hallPredelay c u x) n1 = ((a, ap0), n2))
    (h3 : allpass c (c.rvhApLen 1) u.ap1 (c.rvhApCoef 1) a n2 = ((v, ap1), n3))
    (h4 : hallDelays c u n3 = ((o, ds), n4)) (hr : hallReadable c u.pd ds = true)
    (h5 : hallNetwork c u ds v n4 = ((ln, z, wetL, wetR), n5))
    (h6 : mixLaw c u.p.mix inL wetL n5 = (outL, n6))
    (h7 : mixLaw c u.p.mix inR wetR n6 = (outR, n7)) :
    rvhStep c u inL inR n =
      (some
        ({ u with
            pre := u.pre.push (c.rvhPredelayMax + 1) x, ap0 := ap0, ap1 := ap1, ln := ln, z := z,
            o := o },
          outL, outR), n7) := by
  unfold rvhStep
  rw [Dp.run_bind_of h1, Dp.run_bind_of h2]
  show (allpass c (c.rvhApLen 1) u.ap1 (c.rvhApCoef 1) a >>= _ : Dp _) n2 = _
  rw [Dp.run_bind_of h3]
  show (hallDelays c u >>= _ : Dp _) n3 = _
  rw [Dp.run_bind_of h4]
  show (ite _ _ _ : Dp _) _ = _
  rw [if_pos hr, Dp.run_bind_of h5]
  show (mixLaw c u.p.mix inL wetL >>= _ : Dp _) n5 = _
  rw [Dp.run_bind_of h6, Dp.run_bind_of h7, Dp.run_pure]

theorem rvsStep_run {c : Cfg} {u : RvsUnit} {inL inR x e v0 v1 v2 v zf r b wet outL outR : F32}
    {da0 da1 da2 da3 : Line} {n n1 n2 n3 n4 n5 n6 n7 n8 n9 n10 n11 n12 : Nat}
    (h1 : monoInput c inL inR n = (x, n1)) (h2 : c.mul c.rvsDrive x n1 = (e, n2))
    (h3 : allpass c (c.rvsApLen 0) u.da0 (c.rvsApCoef 0) (c.tanh e) n2 = ((v0, da0), n3))
    (h4 : allpass c (c.rvsApLen 1) u.da1 (c.rvsApCoef 1) v0 n3 = ((v1, da1), n4))
    (h5 : allpass c (c.rvsApLen 2) u.da2 (c.rvsApCoef 2) v1 n4 = ((v2, da2), n5))
    (h6 : allpass c (c.rvsApLen 3) u.da3 (c.rvsApCoef 3) v2 n5 = ((v, da3), n6))
    (h7 : lp1 c u.z c.rvsDampCoef (u.wg.hist (c.rvsLen + 1) c.rvsLen) n6 = (zf, n7))
    (h8 : c.mul u.g zf n7 = (r, n8)) (h9 : c.add v r n8 = (b, n9))
    (h10 : springWet c (u.wg.hist (c.rvsLen + 1) c.rvsLen)
      (u.wg.hist (c.rvsLen + 1) (c.rvsTap 0)) (u.wg.hist (c.rvsLen + 1) (c.rvsTap 1)) n9 =
        (wet, n10))
    (h11 : mixLaw c u.p.mix inL wet n10 = (outL, n11))
    (h12 : mixLaw c u.p.mix inR wet n11 = (outR, n12)) :
    rvsStep c u inL inR n =
      (({ u with
          wg := u.wg.push (c.rvsLen + 1) b, da0 := da0, da1 := da1, da2 := da2, da3 := da3,
          z := zf },
        outL, outR), n12) := by
  unfold rvsStep
  rw [Dp.run_bind_of h1, Dp.run_bind_of h2, Dp.run_bind_of h3]
  show (allpass c (c.rvsApLen 1) u.da1 (c.rvsApCoef 1) v0 >>= _ : Dp _) n3 = _
  rw [Dp.run_bind_of h4]
  show (allpass c (c.rvsApLen 2) u.da2 (c.rvsApCoef 2) v1 >>= _ : Dp _) n4 = _
  rw [Dp.run_bind_of h5]
  show (allpass c (c.rvsApLen 3) u.da3 (c.rvsApCoef 3) v2 >>= _ : Dp _) n5 = _
  rw [Dp.run_bind_of h6]
  show (lp1 c u.z c.rvsDampCoef _ >>= _ : Dp _) n6 = _
  rw [Dp.run_bind_of h7, Dp.run_bind_of h8, Dp.run_bind_of h9, Dp.run_bind_of h10,
    Dp.run_bind_of h11, Dp.run_bind_of h12, Dp.run_pure]

/-- A whole delay of `i` samples can be read from a line of length at least `i + 2` (R91). -/
theorem lineReadable_ofNat {n i : Nat} (h1 : 1 ≤ i) (h2 : i < 2 ^ 24) (h : i + 2 ≤ n) :
    lineReadable n (F32.ofNat i) = true := by
  obtain ⟨hv, hf, -⟩ := F32.ofNat_spec h2
  have hp : 0 < F32.value (F32.ofNat i) := by
    rw [hv]
    have : (1 : Int) ≤ i := by exact_mod_cast h1
    omega
  have hs : F32.sign (F32.ofNat i) = false := by
    cases hs : F32.sign (F32.ofNat i)
    · rfl
    · unfold F32.value at hp
      rw [if_pos hs] at hp
      omega
  have hu : F32.units (F32.ofNat i) = i * 2 ^ 149 := by
    have := F32.value_of_nonneg (le_of_lt hp)
    rw [hv] at this
    exact_mod_cast this.symm
  unfold lineReadable
  rw [hf, hs, hu]
  simp only [Bool.not_false, Bool.and_self, Bool.true_and, decide_eq_true_eq]
  omega

end Sys2Proof.Machine
end

