-- ==== Sys2Proof/Laws/Clamp.lean ====
section
/-! SUPPORT. What the clamps compute, as a comparison of values (R13, R272). -/

namespace Sys2Proof

/-- A value above zero has its sign bit clear. -/
theorem F32.sign_of_pos {x : F32} (h : 0 < F32.value x) : F32.sign x = false := by
  by_contra hc
  simp only [Bool.not_eq_false] at hc
  unfold F32.value at h
  rw [if_pos hc] at h
  omega

/-- An encoding is its sign and its bits 30:0. -/
theorem F32.eq_of_sign_mag {x y : F32} (hs : F32.sign x = F32.sign y)
    (hm : F32.mag x = F32.mag y) : x = y := by
  unfold F32.sign at hs
  unfold F32.mag at hm
  have hx := x.isLt
  have hy := y.isLt
  rw [BitVec.getLsbD, BitVec.getLsbD, Nat.testBit_eq_decide_div_mod_eq,
    Nat.testBit_eq_decide_div_mod_eq, decide_eq_decide] at hs
  apply BitVec.eq_of_toNat_eq
  omega

/-- Equal values of one sign have one encoding. -/
theorem F32.eq_of_sign_value {x y : F32} (hs : F32.sign x = F32.sign y)
    (hv : F32.value x = F32.value y) : x = y := by
  apply F32.eq_of_sign_mag hs
  have hu : F32.units x = F32.units y := by
    unfold F32.value at hv
    rw [hs] at hv
    split at hv <;> omega
  rw [F32.units_eq, F32.units_eq] at hu
  exact F32.unitsOfMag_strictMono.injective hu

theorem F32.max_of_lt {x y : F32} (hx : F32.isNaN x = false) (hy : F32.isNaN y = false)
    (h : F32.value x < F32.value y) : F32.max x y = some y := by
  unfold F32.max
  rw [hx, hy, if_neg (by simp), if_pos h]

theorem F32.max_of_gt {x y : F32} (hx : F32.isNaN x = false) (hy : F32.isNaN y = false)
    (h : F32.value y < F32.value x) : F32.max x y = some x := by
  unfold F32.max
  rw [hx, hy, if_neg (by simp), if_neg (by omega), if_pos h]

/-- Of two equal values, the second not negative, the maximum is the second. -/
theorem F32.max_of_eq {x y : F32} (hx : F32.isNaN x = false) (hy : F32.isNaN y = false)
    (h : F32.value x = F32.value y) (hs : F32.sign y = false) : F32.max x y = some y := by
  unfold F32.max
  rw [hx, hy, if_neg (by simp), if_neg (by omega), if_neg (by omega)]
  split
  · rfl
  · rename_i hx0
    rw [F32.eq_of_sign_value (x := x) (y := y) (by rw [hs]; simpa using hx0) h]

theorem F32.min_of_lt {x y : F32} (hx : F32.isNaN x = false) (hy : F32.isNaN y = false)
    (h : F32.value x < F32.value y) : F32.min x y = some x := by
  unfold F32.min
  rw [hx, hy, if_neg (by simp), if_pos h]

/-- A minimum that is not below its second operand, itself above zero, is that operand. -/
theorem F32.min_of_ge {x y : F32} (hx : F32.isNaN x = false) (hy : F32.isNaN y = false)
    (h : F32.value y ≤ F32.value x) (hp : 0 < F32.value y) : F32.min x y = some y := by
  unfold F32.min
  rw [hx, hy, if_neg (by simp), if_neg (by omega)]
  split
  · rfl
  · rw [F32.sign_of_pos (x := x) (by omega)]
    rfl

theorem F32.lt_iff {x y : F32} (hx : F32.isNaN x = false) (hy : F32.isNaN y = false) :
    F32.lt x y = true ↔ F32.value x < F32.value y := by
  unfold F32.lt
  rw [hx, hy]
  simp

theorem F32.le_iff {x y : F32} (hx : F32.isNaN x = false) (hy : F32.isNaN y = false) :
    F32.le x y = true ↔ F32.value x ≤ F32.value y := by
  unfold F32.le
  rw [hx, hy]
  simp

/-- A comparison that holds has no NaN operand. -/
theorem F32.le_elim {x y : F32} (h : F32.le x y = true) :
    F32.isNaN x = false ∧ F32.isNaN y = false ∧ F32.value x ≤ F32.value y := by
  unfold F32.le at h
  simpa [and_assoc] using h

theorem F32.lt_elim {x y : F32} (h : F32.lt x y = true) :
    F32.isNaN x = false ∧ F32.isNaN y = false ∧ F32.value x < F32.value y := by
  unfold F32.lt at h
  simpa [and_assoc] using h

theorem F32.within_elim {lo x hi : F32} (h : F32.within lo x hi = true) :
    F32.isNaN lo = false ∧ F32.isNaN x = false ∧ F32.isNaN hi = false ∧
      F32.value lo ≤ F32.value x ∧ F32.value x ≤ F32.value hi := by
  unfold F32.within at h
  rw [Bool.and_eq_true] at h
  have h1 := F32.le_elim h.1
  have h2 := F32.le_elim h.2
  exact ⟨h1.1, h1.2.1, h2.2.1, h1.2.2, h2.2.2⟩

theorem F32.within_intro {lo x hi : F32} (hlo : F32.isNaN lo = false) (hx : F32.isNaN x = false)
    (hhi : F32.isNaN hi = false) (h1 : F32.value lo ≤ F32.value x)
    (h2 : F32.value x ≤ F32.value hi) : F32.within lo x hi = true := by
  unfold F32.within
  rw [(F32.le_iff hlo hx).2 h1, (F32.le_iff hx hhi).2 h2]
  rfl

theorem F32.value_zero : F32.value F32.zero = 0 := by decide

theorem F32.value_one : F32.value F32.one = 2 ^ 149 := by decide

/-- A value between finite bounds is finite. -/
theorem F32.finite_of_within {lo x hi : F32} (hlo : F32.isFinite lo = true)
    (hhi : F32.isFinite hi = true) (h : F32.within lo x hi = true) : F32.isFinite x = true := by
  obtain ⟨-, hx, -, h1, h2⟩ := F32.within_elim h
  rw [F32.isFinite_iff] at *
  rcases le_or_gt 0 (F32.value x) with hs | hs
  · rw [F32.value_of_nonneg hs] at h2
    have : F32.units x ≤ F32.units hi := by have := F32.value_le_units hi; omega
    rw [F32.units_le_iff] at this
    omega
  · rw [F32.value_of_nonpos hs.le] at h1
    have : F32.units x ≤ F32.units lo := by have := F32.neg_units_le_value lo; omega
    rw [F32.units_le_iff] at this
    omega

/-- Adding a zero to a positive value that is not subnormal leaves it as it was. -/
theorem Cfg.add_zero_value (c : Cfg) {x z : F32} (k : Nat) (hx : F32.isSolid x = true)
    (hp : 0 < F32.value x) (hz : F32.isFinite z = true) (hv : F32.value z = 0) :
    c.add x z k = (x, k) := by
  have hf := F32.isSolid_finite hx
  have he : F32.value (c.flush x) + F32.value (c.flush z) = F32.value x := by
    rw [c.flush_solid hx, c.flush_value_zero hv, Int.add_zero]
  obtain ⟨r, h1, h2, h3, h4⟩ := c.add_between k hf hz hx hx (le_of_eq he.symm) (le_of_eq he)
  have hr : F32.value r = F32.value x := by omega
  rw [h1]
  have : r = x :=
    F32.eq_of_sign_value (by rw [F32.sign_of_pos (hr ▸ hp), F32.sign_of_pos hp]) hr
  rw [this]

namespace Machine

/-- A clamp to [0, 1] of a value that is not a NaN draws nothing, and gives +0, the value itself, or `ONE`
(R272). -/
theorem clampUnit_run (c : Cfg) {v : F32} (h : F32.isNaN v = false) (n : Nat) :
    c.clampUnit v n = (F32.unitClamped (c.flush v), n) := by
  have hz : c.flush F32.zero = F32.zero := c.flush_solid (by decide)
  have ho : c.flush F32.one = F32.one := c.flush_solid (by decide)
  have hn : F32.isNaN (c.flush v) = false := by rw [c.flush_isNaN]; exact h
  have hp : 0 < F32.value F32.one := by rw [F32.value_one]; positivity
  have hzn : F32.isNaN F32.zero = false := by decide
  have hon : F32.isNaN F32.one = false := by decide
  show (c.finish (F32.max (c.flush v) (c.flush F32.zero)) >>= fun m =>
    c.finish (F32.min (c.flush m) (c.flush F32.one))) n = _
  rw [hz, ho]
  have hfx : c.flush (c.flush v) = c.flush v := c.flush_flush v
  generalize c.flush v = x at hn hfx
  unfold F32.unitClamped
  rcases Int.lt_or_le (F32.value F32.zero) (F32.value x) with h1 | h1
  · rw [(F32.lt_iff hzn hn).2 h1, if_neg (by simp), F32.max_of_gt hn hzn h1,
      Dp.run_bind_of (a := x) (k' := n) (by show (c.flush x, n) = _; rw [hfx]), hfx]
    rcases Int.lt_or_le (F32.value x) (F32.value F32.one) with h2 | h2
    · rw [(F32.lt_iff hn hon).2 h2, if_pos rfl, F32.min_of_lt hn hon h2]
      show (c.flush x, n) = _
      rw [hfx]
    · rw [if_neg (by rw [F32.lt_iff hn hon]; omega), F32.min_of_ge hn hon h2 hp]
      show (c.flush F32.one, n) = _
      rw [ho]
  · have hlt : F32.lt F32.zero x = false := by
      rw [← Bool.not_eq_true, F32.lt_iff hzn hn]; omega
    have hm : F32.max x F32.zero = some F32.zero := by
      rcases Int.lt_or_eq_of_le h1 with h2 | h2
      · exact F32.max_of_lt hn hzn h2
      · exact F32.max_of_eq hn hzn h2 (by decide)
    rw [if_pos hlt, hm,
      Dp.run_bind_of (a := F32.zero) (k' := n) (by show (c.flush F32.zero, n) = _; rw [hz]), hz,
      F32.min_of_lt hzn hon (by rw [F32.value_zero]; exact hp)]
    show (c.flush F32.zero, n) = _
    rw [hz]

/-- A clamp between bounds above zero, in order and not subnormal, of a value that is not a NaN draws
nothing, and gives the value or the bound it passes (R13). -/
theorem clamp_run (c : Cfg) {v lo hi : F32} (h : F32.isNaN v = false) (hlo : F32.isSolid lo = true)
    (hhi : F32.isSolid hi = true) (hp : 0 < F32.value lo) (hle : F32.value lo ≤ F32.value hi)
    (n : Nat) : c.clamp v lo hi n = (F32.clamped (c.flush v) lo hi, n) := by
  have hz : c.flush lo = lo := c.flush_solid hlo
  have ho : c.flush hi = hi := c.flush_solid hhi
  have hn : F32.isNaN (c.flush v) = false := by rw [c.flush_isNaN]; exact h
  have hln := F32.not_isNaN_of_finite (F32.isSolid_finite hlo)
  have hhn := F32.not_isNaN_of_finite (F32.isSolid_finite hhi)
  show (c.finish (F32.max (c.flush v) (c.flush lo)) >>= fun m =>
    c.finish (F32.min (c.flush m) (c.flush hi))) n = _
  rw [hz, ho]
  have hfx : c.flush (c.flush v) = c.flush v := c.flush_flush v
  generalize c.flush v = x at hn hfx
  have hmin : ∀ m, F32.isNaN m = false → c.flush m = m → F32.value lo ≤ F32.value m →
      c.finish (F32.min (c.flush m) hi) n = (if F32.lt hi m then hi else m, n) := by
    intro m hm hfm hml
    rw [hfm]
    rcases Int.lt_or_le (F32.value m) (F32.value hi) with h2 | h2
    · rw [F32.min_of_lt hm hhn h2, if_neg (by rw [F32.lt_iff hhn hm]; omega)]
      show (c.flush m, n) = _
      rw [hfm]
    · rw [F32.min_of_ge hm hhn h2 (by omega)]
      show (c.flush hi, n) = _
      rw [ho]
      split
      · rfl
      · rename_i hc
        rw [F32.lt_iff hhn hm] at hc
        rw [F32.eq_of_sign_value (x := hi) (y := m)
          (by rw [F32.sign_of_pos (by omega), F32.sign_of_pos (by omega)]) (by omega)]
  unfold F32.clamped
  rcases Int.lt_trichotomy (F32.value x) (F32.value lo) with h1 | h1 | h1
  · rw [(F32.lt_iff hn hln).2 h1, if_pos rfl, F32.max_of_lt hn hln h1,
      Dp.run_bind_of (a := lo) (k' := n) (by show (c.flush lo, n) = _; rw [hz]),
      hmin lo hln hz (le_refl _), if_neg (by rw [F32.lt_iff hhn hln]; omega)]
  · have hxl : x = lo := F32.eq_of_sign_value
      (by rw [F32.sign_of_pos (by omega), F32.sign_of_pos (by omega)]) h1
    rw [if_neg (by rw [F32.lt_iff hn hln]; omega),
      F32.max_of_eq hn hln h1 (F32.sign_of_pos hp),
      Dp.run_bind_of (a := lo) (k' := n) (by show (c.flush lo, n) = _; rw [hz]),
      hmin lo hln hz (le_refl _), hxl]
  · rw [if_neg (by rw [F32.lt_iff hn hln]; omega), F32.max_of_gt hn hln h1,
      Dp.run_bind_of (a := x) (k' := n) (by show (c.flush x, n) = _; rw [hfx]),
      hmin x hn hfx (by omega)]

end Machine
end Sys2Proof
end

