-- ==== Sys2Proof/Laws/Memory.lean ====
section
/-! SUPPORT. Sample memory and delay lines (Machine/Lines.lean): a read after a write, the canonical form
and its uniqueness, and what a push does to the history. -/

namespace Sys2Proof.Machine

theorem Memory.read_of_wfFrom_lt {n lo : Nat} {m : Memory} (h : Memory.wfFrom n lo m = true) {j : Nat}
    (hj : j < lo) : Memory.read m j = 0#32 := by
  induction m generalizing lo with
  | nil => rfl
  | cons p m ih =>
    obtain ⟨i, v⟩ := p
    simp only [Memory.wfFrom, Bool.and_eq_true, decide_eq_true_eq] at h
    rw [Memory.read, if_neg (by omega)]
    exact ih h.2 (by omega)

theorem Memory.wfFrom_weaken {n lo lo' : Nat} {m : Memory} (h : Memory.wfFrom n lo m = true)
    (hl : lo' ≤ lo) : Memory.wfFrom n lo' m = true := by
  cases m with
  | nil => rfl
  | cons p m =>
    obtain ⟨i, v⟩ := p
    simp only [Memory.wfFrom, Bool.and_eq_true, decide_eq_true_eq] at h ⊢
    exact ⟨⟨⟨by omega, h.1.1.2⟩, h.1.2⟩, h.2⟩

/-- A write keeps the canonical form. -/
theorem Memory.write_wfFrom {n lo : Nat} {m : Memory} (h : Memory.wfFrom n lo m = true) {j : Nat}
    (hlo : lo ≤ j) (hj : j < n) (v : F32) : Memory.wfFrom n lo (Memory.write m j v) = true := by
  induction m generalizing lo with
  | nil =>
    unfold Memory.write
    split
    · rfl
    · simp [Memory.wfFrom, *]
  | cons p m ih =>
    obtain ⟨i, x⟩ := p
    have h0 := h
    simp only [Memory.wfFrom, Bool.and_eq_true, decide_eq_true_eq] at h
    unfold Memory.write
    split
    · split
      · exact h0
      · simp only [Memory.wfFrom, Bool.and_eq_true, decide_eq_true_eq, bne_iff_ne, ne_eq]
        refine ⟨⟨⟨hlo, hj⟩, by assumption⟩, ⟨⟨by omega, h.1.1.2⟩, ?_⟩, h.2⟩
        simpa using h.1.2
    · split
      · subst_vars
        split
        · exact Memory.wfFrom_weaken h.2 (by omega)
        · simp only [Memory.wfFrom, Bool.and_eq_true, decide_eq_true_eq, bne_iff_ne, ne_eq]
          exact ⟨⟨⟨hlo, hj⟩, by assumption⟩, h.2⟩
      · simp only [Memory.wfFrom, Bool.and_eq_true, decide_eq_true_eq]
        exact ⟨h.1, ih h.2 (by omega)⟩

/-- A write keeps the canonical form of a buffer of `n` samples. -/
theorem Memory.write_wf {n : Nat} {m : Memory} (h : Memory.wf n m = true) {j : Nat} (hj : j < n)
    (v : F32) : Memory.wf n (Memory.write m j v) = true :=
  Memory.write_wfFrom h (Nat.zero_le _) hj v

theorem Memory.read_write_from {n lo : Nat} {m : Memory} (h : Memory.wfFrom n lo m = true) (j : Nat)
    (v : F32) (k : Nat) :
    Memory.read (Memory.write m j v) k = if j = k then v else Memory.read m k := by
  induction m generalizing lo with
  | nil =>
    unfold Memory.write
    split
    · subst_vars; simp [Memory.read]
    · simp [Memory.read]
  | cons p m ih =>
    obtain ⟨i, x⟩ := p
    simp only [Memory.wfFrom, Bool.and_eq_true, decide_eq_true_eq] at h
    unfold Memory.write
    split
    · split
      · by_cases hk : j = k
        · subst hk
          rw [if_pos rfl, Memory.read, if_neg (by omega), Memory.read_of_wfFrom_lt h.2 (by omega)]
          subst_vars; rfl
        · rw [if_neg hk]
      · rw [Memory.read]
    · split
      · subst_vars
        split
        · subst_vars
          by_cases hk : i = k
          · subst hk
            rw [if_pos rfl, Memory.read_of_wfFrom_lt h.2 (by omega)]
          · rw [if_neg hk, Memory.read, if_neg hk]
        · by_cases hk : i = k <;> simp [Memory.read, hk]
      · rw [Memory.read, Memory.read, ih h.2]
        by_cases hk : i = k
        · subst hk
          rw [if_pos rfl, if_pos rfl, if_neg (by omega)]
        · rw [if_neg hk, if_neg hk]

/-- Everything a write does to the reads of a canonical buffer. -/
theorem Memory.read_write {n : Nat} {m : Memory} (h : Memory.wf n m = true) (j : Nat) (v : F32)
    (k : Nat) : Memory.read (Memory.write m j v) k = if j = k then v else Memory.read m k :=
  Memory.read_write_from h j v k

/-- Canonical buffers that read the same are the same data. -/
theorem Memory.ext_from {n lo : Nat} {m m' : Memory} (h : Memory.wfFrom n lo m = true)
    (h' : Memory.wfFrom n lo m' = true) (he : ∀ j, Memory.read m j = Memory.read m' j) : m = m' := by
  induction m generalizing m' lo with
  | nil =>
    cases m' with
    | nil => rfl
    | cons p m' =>
      obtain ⟨i, v⟩ := p
      have := he i
      simp [Memory.read] at this
      simp [Memory.wfFrom, ← this] at h'
  | cons p m ih =>
    obtain ⟨i, v⟩ := p
    cases m' with
    | nil =>
      have := he i
      simp [Memory.read] at this
      simp [Memory.wfFrom, this] at h
    | cons p' m' =>
      obtain ⟨i', v'⟩ := p'
      simp only [Memory.wfFrom, Bool.and_eq_true, decide_eq_true_eq, bne_iff_ne, ne_eq] at h h'
      have hi : i = i' := by
        rcases Nat.lt_trichotomy i i' with hlt | heq | hgt
        · have := he i
          rw [Memory.read, if_pos rfl, Memory.read, if_neg (by omega),
            Memory.read_of_wfFrom_lt h'.2 (by omega)] at this
          exact absurd this h.1.2
        · exact heq
        · have := he i'
          rw [Memory.read, if_neg (by omega), Memory.read, if_pos rfl,
            Memory.read_of_wfFrom_lt h.2 (by omega)] at this
          exact absurd this.symm h'.1.2
      subst hi
      have hv : v = v' := by
        have := he i
        simpa [Memory.read] using this
      subst hv
      congr 1
      refine ih h.2 h'.2 fun j => ?_
      by_cases hj : i = j
      · subst hj
        rw [Memory.read_of_wfFrom_lt h.2 (by omega), Memory.read_of_wfFrom_lt h'.2 (by omega)]
      · have := he j
        rwa [Memory.read, if_neg hj, Memory.read, if_neg hj] at this

/-- Canonical buffers that read the same are the same data. -/
theorem Memory.ext {n : Nat} {m m' : Memory} (h : Memory.wf n m = true) (h' : Memory.wf n m' = true)
    (he : ∀ j, Memory.read m j = Memory.read m' j) : m = m' :=
  Memory.ext_from h h' he

@[simp] theorem Memory.read_nil (j : Nat) : Memory.read [] j = 0#32 := rfl

@[simp] theorem Memory.wf_nil (n : Nat) : Memory.wf n [] = true := rfl

@[simp] theorem Line.zero_buf : Line.zero.buf = [] := rfl

@[simp] theorem Line.zero_w : Line.zero.w = 0 := rfl

@[simp] theorem Line.push_buf (n : Nat) (l : Line) (v : F32) :
    (l.push n v).buf = Memory.write l.buf l.w v := rfl

@[simp] theorem Line.push_w (n : Nat) (l : Line) (v : F32) : (l.push n v).w = (l.w + 1) % n := rfl

theorem Line.wf_iff (n : Nat) (l : Line) :
    l.wf n = true ↔ l.w < n ∧ Memory.wf n l.buf = true := by
  simp [Line.wf]

theorem Line.zero_wf {n : Nat} (h : 0 < n) : Line.zero.wf n = true := by
  rw [Line.wf_iff]; exact ⟨h, rfl⟩

/-- A push keeps a delay line well formed. -/
theorem Line.push_wf {n : Nat} {l : Line} (h : l.wf n = true) (v : F32) :
    (l.push n v).wf n = true := by
  rw [Line.wf_iff] at h ⊢
  exact ⟨Nat.mod_lt _ (by omega), Memory.write_wf h.2 h.1 v⟩

/-- A zeroed line reads +0 at every distance (R93). -/
theorem Line.hist_zero (n k : Nat) : Line.zero.hist n k = 0#32 := rfl

end Sys2Proof.Machine
end

