-- ==== Sys2Proof/Laws/State.lean ====
section
/-! SUPPORT. One lemma per field for each named update of the state, so that no later proof unfolds one. -/

namespace Sys2Proof.Machine

/-- An error already recorded keeps the whole state (R402). -/
theorem State.raise_of_err {s : State} (h : s.err = true) (c : Cause) (w : Word) : s.raise c w = s := by
  simp [State.raise, h]

/-- The first error is recorded, and nothing else changes (R402, R412). -/
theorem State.raise_of_not_err {s : State} (h : s.err = false) (c : Cause) (w : Word) :
    s.raise c w = { s with err := true, cause := Cause.code c, errcmd := w } := by
  simp [State.raise, h]

@[simp] theorem State.raise_err (s : State) (c : Cause) (w : Word) : (s.raise c w).err = true := by
  unfold State.raise; split <;> simp_all

@[simp] theorem State.raise_arg0 (s : State) (c : Cause) (w : Word) : (s.raise c w).arg0 = s.arg0 := by
  unfold State.raise; split <;> rfl
@[simp] theorem State.raise_arg1 (s : State) (c : Cause) (w : Word) : (s.raise c w).arg1 = s.arg1 := by
  unfold State.raise; split <;> rfl
@[simp] theorem State.raise_arg2 (s : State) (c : Cause) (w : Word) : (s.raise c w).arg2 = s.arg2 := by
  unfold State.raise; split <;> rfl
@[simp] theorem State.raise_res0 (s : State) (c : Cause) (w : Word) : (s.raise c w).res0 = s.res0 := by
  unfold State.raise; split <;> rfl
@[simp] theorem State.raise_res1 (s : State) (c : Cause) (w : Word) : (s.raise c w).res1 = s.res1 := by
  unfold State.raise; split <;> rfl
@[simp] theorem State.raise_bq (s : State) (c : Cause) (w : Word) : (s.raise c w).bq = s.bq := by
  unfold State.raise; split <;> rfl
@[simp] theorem State.raise_op (s : State) (c : Cause) (w : Word) : (s.raise c w).op = s.op := by
  unfold State.raise; split <;> rfl
@[simp] theorem State.raise_lfo (s : State) (c : Cause) (w : Word) : (s.raise c w).lfo = s.lfo := by
  unfold State.raise; split <;> rfl
@[simp] theorem State.raise_dly (s : State) (c : Cause) (w : Word) : (s.raise c w).dly = s.dly := by
  unfold State.raise; split <;> rfl
@[simp] theorem State.raise_trs (s : State) (c : Cause) (w : Word) : (s.raise c w).trs = s.trs := by
  unfold State.raise; split <;> rfl
@[simp] theorem State.raise_trq (s : State) (c : Cause) (w : Word) : (s.raise c w).trq = s.trq := by
  unfold State.raise; split <;> rfl
@[simp] theorem State.raise_trh (s : State) (c : Cause) (w : Word) : (s.raise c w).trh = s.trh := by
  unfold State.raise; split <;> rfl
@[simp] theorem State.raise_rvp (s : State) (c : Cause) (w : Word) : (s.raise c w).rvp = s.rvp := by
  unfold State.raise; split <;> rfl
@[simp] theorem State.raise_rvh (s : State) (c : Cause) (w : Word) : (s.raise c w).rvh = s.rvh := by
  unfold State.raise; split <;> rfl
@[simp] theorem State.raise_rvs (s : State) (c : Cause) (w : Word) : (s.raise c w).rvs = s.rvs := by
  unfold State.raise; split <;> rfl
@[simp] theorem State.raise_pending (s : State) (c : Cause) (w : Word) : (s.raise c w).pending = s.pending := by
  unfold State.raise; split <;> rfl
@[simp] theorem State.raise_lastRead (s : State) (c : Cause) (w : Word) : (s.raise c w).lastRead = s.lastRead := by
  unfold State.raise; split <;> rfl
@[simp] theorem State.raise_draws (s : State) (c : Cause) (w : Word) : (s.raise c w).draws = s.draws := by
  unfold State.raise; split <;> rfl

@[simp] theorem State.respond_arg0 (s : State) (r0 r1 : Word) : (s.respond r0 r1).arg0 = s.arg0 := rfl
@[simp] theorem State.respond_arg1 (s : State) (r0 r1 : Word) : (s.respond r0 r1).arg1 = s.arg1 := rfl
@[simp] theorem State.respond_arg2 (s : State) (r0 r1 : Word) : (s.respond r0 r1).arg2 = s.arg2 := rfl
@[simp] theorem State.respond_res0 (s : State) (r0 r1 : Word) : (s.respond r0 r1).res0 = r0 := rfl
@[simp] theorem State.respond_res1 (s : State) (r0 r1 : Word) : (s.respond r0 r1).res1 = r1 := rfl
@[simp] theorem State.respond_err (s : State) (r0 r1 : Word) : (s.respond r0 r1).err = s.err := rfl
@[simp] theorem State.respond_cause (s : State) (r0 r1 : Word) : (s.respond r0 r1).cause = s.cause := rfl
@[simp] theorem State.respond_errcmd (s : State) (r0 r1 : Word) : (s.respond r0 r1).errcmd = s.errcmd := rfl
@[simp] theorem State.respond_bq (s : State) (r0 r1 : Word) : (s.respond r0 r1).bq = s.bq := rfl
@[simp] theorem State.respond_op (s : State) (r0 r1 : Word) : (s.respond r0 r1).op = s.op := rfl
@[simp] theorem State.respond_lfo (s : State) (r0 r1 : Word) : (s.respond r0 r1).lfo = s.lfo := rfl
@[simp] theorem State.respond_dly (s : State) (r0 r1 : Word) : (s.respond r0 r1).dly = s.dly := rfl
@[simp] theorem State.respond_trs (s : State) (r0 r1 : Word) : (s.respond r0 r1).trs = s.trs := rfl
@[simp] theorem State.respond_trq (s : State) (r0 r1 : Word) : (s.respond r0 r1).trq = s.trq := rfl
@[simp] theorem State.respond_trh (s : State) (r0 r1 : Word) : (s.respond r0 r1).trh = s.trh := rfl
@[simp] theorem State.respond_rvp (s : State) (r0 r1 : Word) : (s.respond r0 r1).rvp = s.rvp := rfl
@[simp] theorem State.respond_rvh (s : State) (r0 r1 : Word) : (s.respond r0 r1).rvh = s.rvh := rfl
@[simp] theorem State.respond_rvs (s : State) (r0 r1 : Word) : (s.respond r0 r1).rvs = s.rvs := rfl
@[simp] theorem State.respond_pending (s : State) (r0 r1 : Word) : (s.respond r0 r1).pending = s.pending := rfl
@[simp] theorem State.respond_lastRead (s : State) (r0 r1 : Word) : (s.respond r0 r1).lastRead = s.lastRead := rfl
@[simp] theorem State.respond_draws (s : State) (r0 r1 : Word) : (s.respond r0 r1).draws = s.draws := rfl

@[simp] theorem blockReset_arg0 (s : State) : (blockReset s).arg0 = State.reset.arg0 := rfl
@[simp] theorem blockReset_arg1 (s : State) : (blockReset s).arg1 = State.reset.arg1 := rfl
@[simp] theorem blockReset_arg2 (s : State) : (blockReset s).arg2 = State.reset.arg2 := rfl
@[simp] theorem blockReset_res0 (s : State) : (blockReset s).res0 = State.reset.res0 := rfl
@[simp] theorem blockReset_res1 (s : State) : (blockReset s).res1 = State.reset.res1 := rfl
@[simp] theorem blockReset_err (s : State) : (blockReset s).err = State.reset.err := rfl
@[simp] theorem blockReset_cause (s : State) : (blockReset s).cause = State.reset.cause := rfl
@[simp] theorem blockReset_errcmd (s : State) : (blockReset s).errcmd = State.reset.errcmd := rfl
@[simp] theorem blockReset_bq (s : State) : (blockReset s).bq = State.reset.bq := rfl
@[simp] theorem blockReset_op (s : State) : (blockReset s).op = State.reset.op := rfl
@[simp] theorem blockReset_lfo (s : State) : (blockReset s).lfo = State.reset.lfo := rfl
@[simp] theorem blockReset_dly (s : State) : (blockReset s).dly = State.reset.dly := rfl
@[simp] theorem blockReset_trs (s : State) : (blockReset s).trs = State.reset.trs := rfl
@[simp] theorem blockReset_trq (s : State) : (blockReset s).trq = State.reset.trq := rfl
@[simp] theorem blockReset_trh (s : State) : (blockReset s).trh = State.reset.trh := rfl
@[simp] theorem blockReset_rvp (s : State) : (blockReset s).rvp = State.reset.rvp := rfl
@[simp] theorem blockReset_rvh (s : State) : (blockReset s).rvh = State.reset.rvh := rfl
@[simp] theorem blockReset_rvs (s : State) : (blockReset s).rvs = State.reset.rvs := rfl
@[simp] theorem blockReset_pending (s : State) : (blockReset s).pending = s.pending := rfl
@[simp] theorem blockReset_lastRead (s : State) : (blockReset s).lastRead = s.lastRead := rfl
@[simp] theorem blockReset_draws (s : State) : (blockReset s).draws = s.draws := rfl

@[simp] theorem State.withFetchWord_arg0 (s : State) (n w : Nat) :
    (s.withFetchWord n w).arg0 = s.arg0 := rfl
@[simp] theorem State.withFetchWord_arg1 (s : State) (n w : Nat) :
    (s.withFetchWord n w).arg1 = s.arg1 := rfl
@[simp] theorem State.withFetchWord_arg2 (s : State) (n w : Nat) :
    (s.withFetchWord n w).arg2 = s.arg2 := rfl
@[simp] theorem State.withFetchWord_res0 (s : State) (n w : Nat) :
    (s.withFetchWord n w).res0 = s.res0 := rfl
@[simp] theorem State.withFetchWord_res1 (s : State) (n w : Nat) :
    (s.withFetchWord n w).res1 = s.res1 := rfl
@[simp] theorem State.withFetchWord_err (s : State) (n w : Nat) :
    (s.withFetchWord n w).err = s.err := rfl
@[simp] theorem State.withFetchWord_cause (s : State) (n w : Nat) :
    (s.withFetchWord n w).cause = s.cause := rfl
@[simp] theorem State.withFetchWord_errcmd (s : State) (n w : Nat) :
    (s.withFetchWord n w).errcmd = s.errcmd := rfl
@[simp] theorem State.withFetchWord_bq (s : State) (n w : Nat) :
    (s.withFetchWord n w).bq = s.bq := rfl
@[simp] theorem State.withFetchWord_op (s : State) (n w : Nat) :
    (s.withFetchWord n w).op = s.op := rfl
@[simp] theorem State.withFetchWord_lfo (s : State) (n w : Nat) :
    (s.withFetchWord n w).lfo = s.lfo := rfl
@[simp] theorem State.withFetchWord_dly (s : State) (n w : Nat) :
    (s.withFetchWord n w).dly = s.dly := rfl
@[simp] theorem State.withFetchWord_trs (s : State) (n w : Nat) :
    (s.withFetchWord n w).trs = s.trs := rfl
@[simp] theorem State.withFetchWord_trq (s : State) (n w : Nat) :
    (s.withFetchWord n w).trq = s.trq := rfl
@[simp] theorem State.withFetchWord_trh (s : State) (n w : Nat) :
    (s.withFetchWord n w).trh = s.trh := rfl
@[simp] theorem State.withFetchWord_rvp (s : State) (n w : Nat) :
    (s.withFetchWord n w).rvp = s.rvp := rfl
@[simp] theorem State.withFetchWord_rvh (s : State) (n w : Nat) :
    (s.withFetchWord n w).rvh = s.rvh := rfl
@[simp] theorem State.withFetchWord_rvs (s : State) (n w : Nat) :
    (s.withFetchWord n w).rvs = s.rvs := rfl
@[simp] theorem State.withFetchWord_pending (s : State) (n w : Nat) :
    (s.withFetchWord n w).pending = cmdWrite (BitVec.ofNat 32 (w % 2 ^ n)) :: s.pending := rfl
@[simp] theorem State.withFetchWord_lastRead (s : State) (n w : Nat) :
    (s.withFetchWord n w).lastRead = s.lastRead := rfl
@[simp] theorem State.withFetchWord_draws (s : State) (n w : Nat) :
    (s.withFetchWord n w).draws = s.draws := rfl

/-- A raise leaves every unit's `init` as it was. -/
@[simp] theorem unitInit_raise (u : UnitId) (s : State) (c : Cause) (w : Word) :
    unitInit u (s.raise c w) = unitInit u s := by
  cases u <;> simp [unitInit]

/-- A result write leaves every unit's `init` as it was. -/
@[simp] theorem unitInit_respond (u : UnitId) (s : State) (r0 r1 : Word) :
    unitInit u (s.respond r0 r1) = unitInit u s := by
  cases u <;> rfl

end Sys2Proof.Machine
end

