-- ==== Sys2Proof/Laws/Ops.lean ====
section
/-! SUPPORT. What each shared operation can do, said once: the command checks, the runs of a rule on the
datapath, host accesses, and one step. -/

namespace Sys2Proof.Machine

/-- Everything the checks can do (R403): one of the two errors, or the rule. -/
theorem checked_cases (i : Instr) (s : State) (r : Host.Outcome State Fault Refusal) :
    (i.op ≠ 0x00#8 ∧ unitInit i.unit s = false ∧ checked i s r = .next (s.raise .notInit (encode i))) ∨
    ((i.op = 0x00#8 ∨ unitInit i.unit s = true) ∧ operandsFinite i s = false ∧
      checked i s r = .next (s.raise .badOperand (encode i))) ∨
    ((i.op = 0x00#8 ∨ unitInit i.unit s = true) ∧ operandsFinite i s = true ∧ checked i s r = r) := by
  unfold checked abandon
  by_cases h1 : i.op ≠ 0x00#8 ∧ unitInit i.unit s = false
  · exact Or.inl ⟨h1.1, h1.2, if_pos h1⟩
  · have h1' : i.op = 0x00#8 ∨ unitInit i.unit s = true := by
      by_cases ho : i.op = 0x00#8
      · exact Or.inl ho
      · right
        cases hu : unitInit i.unit s
        · exact absurd ⟨ho, hu⟩ h1
        · rfl
    right
    rw [if_neg h1]
    cases h2 : operandsFinite i s
    · exact Or.inl ⟨h1', rfl, if_pos rfl⟩
    · exact Or.inr ⟨h1', rfl, if_neg (by simp)⟩

/-- A command whose checks pass performs its rule. -/
theorem checked_pass {i : Instr} {s : State} {r : Host.Outcome State Fault Refusal}
    (h1 : i.op = 0x00#8 ∨ unitInit i.unit s = true) (h2 : operandsFinite i s = true) :
    checked i s r = r := by
  unfold checked
  rw [if_neg, if_neg]
  · simp [h2]
  · rintro ⟨ha, hb⟩
    rcases h1 with h | h
    · exact ha h
    · simp [hb] at h

/-- A command to a unit that is not initialised raises `NOT_INIT` (R406). -/
theorem checked_notInit {i : Instr} {s : State} (r : Host.Outcome State Fault Refusal)
    (h1 : i.op ≠ 0x00#8) (h2 : unitInit i.unit s = false) :
    checked i s r = .next (s.raise .notInit (encode i)) := by
  unfold checked abandon
  rw [if_pos ⟨h1, h2⟩]

/-- A non-finite operand raises `BAD_OPERAND` (R407). -/
theorem checked_badOperand {i : Instr} {s : State} (r : Host.Outcome State Fault Refusal)
    (h1 : i.op = 0x00#8 ∨ unitInit i.unit s = true) (h2 : operandsFinite i s = false) :
    checked i s r = .next (s.raise .badOperand (encode i)) := by
  rcases checked_cases i s r with h | h | h
  · rcases h1 with h1 | h1
    · exact absurd h1 h.1
    · simp [h.2.1] at h1
  · exact h.2.2
  · simp [h2] at h

/-- A rule run on the datapath always completes. -/
theorem perform_eq (s : State) (p : Dp State) :
    perform s p = .next { (p s.draws).1 with draws := (p s.draws).2 } := rfl

/-- A rule with line reads completes, or is refused by name and changes nothing. -/
theorem performLine_cases (s : State) (p : Dp (Option State)) :
    (∃ t, (p s.draws).1 = some t ∧
      performLine s p = .next { t with draws := (p s.draws).2 }) ∨
    ((p s.draws).1 = none ∧ performLine s p = .refused .lineRange) := by
  unfold performLine
  cases h : (p s.draws).1 with
  | none => exact Or.inr ⟨rfl, rfl⟩
  | some t => exact Or.inl ⟨t, rfl, rfl⟩

/-- An `INIT` with a rate above zero runs its rule; any other raises `BAD_OPERAND` (R407). -/
theorem initialise_cases (i : Instr) (s : State) (p : F32 → Dp State) :
    (Config.cfg.lt F32.zero s.f0 = true ∧ initialise i s p = perform s (p s.f0)) ∨
    (Config.cfg.lt F32.zero s.f0 = false ∧
      initialise i s p = .next (s.raise .badOperand (encode i))) := by
  unfold initialise abandon
  cases h : Config.cfg.lt F32.zero s.f0
  · exact Or.inr ⟨rfl, if_neg (by simp)⟩
  · exact Or.inl ⟨rfl, if_pos rfl⟩

/-- Everything a write to the window can do (R86): a command, an operand register, or `BAD_REGISTER`. -/
theorem memWrite_cases (run : Word → State → Host.Outcome State Fault Refusal) (o : Nat) (v : Word)
    (s : State) :
    (o = 0x00 ∧ memWrite run o v s = run v s) ∨
    (o = 0x04 ∧ memWrite run o v s = .next { s with arg0 := v }) ∨
    (o = 0x08 ∧ memWrite run o v s = .next { s with arg1 := v }) ∨
    (o = 0x0C ∧ memWrite run o v s = .next { s with arg2 := v }) ∨
    (o ∉ [0x00, 0x04, 0x08, 0x0C] ∧
      memWrite run o v s = .next (s.raise .badRegister (BitVec.ofNat 32 o))) := by
  unfold memWrite
  split <;> simp_all

/-- Everything a host access can do (R80, R82, R83, R86). -/
theorem hostAccess_cases (run : Word → State → Host.Outcome State Fault Refusal) (a : Access)
    (s : State) :
    (a.inWindow = false ∧ hostAccess run a s = .fault .outsideWindow) ∨
    (a.inWindow = true ∧ a.wordWide = false ∧ hostAccess run a s = .refused .accessWidth) ∨
    (a.inWindow = true ∧ a.wordWide = true ∧ a.aligned = false ∧
      hostAccess run a s = .refused .misaligned) ∨
    (a.admitted = true ∧ a.kind = .read ∧
      hostAccess run a s = .next { s with lastRead := some (memRead a.off.toNat s) }) ∨
    (a.admitted = true ∧ a.kind = .write ∧
      hostAccess run a s = memWrite run a.off.toNat a.data s) := by
  unfold hostAccess Access.admitted
  cases a.inWindow <;> cases a.wordWide <;> cases a.aligned <;> cases a.kind <;> simp

/-- Everything one step can do: nothing, or the next event with the rest still pending. -/
theorem step_cases (s : State) :
    (s.pending = [] ∧ step s = .next s) ∨
    (∃ e rest, s.pending = e :: rest ∧ step s = hostEvent execute e { s with pending := rest }) := by
  unfold step
  cases s.pending with
  | nil => exact Or.inl ⟨rfl, rfl⟩
  | cons e rest => exact Or.inr ⟨e, rest, rfl, rfl⟩

/-- Everything a command word can do (R403). -/
theorem execute_cases (w : Word) (s : State) :
    (∃ c, decode w = .error c ∧ execute w s = .next (s.raise c w)) ∨
    (∃ i, decode w = .ok i ∧ execute w s = exec i s) := by
  unfold execute
  cases decode w with
  | error c => exact Or.inl ⟨c, rfl, rfl⟩
  | ok i => exact Or.inr ⟨i, rfl, rfl⟩

/-- A step on a `CMD` write. -/
theorem step_cmdWrite {s : State} {w : Word} {rest : List HostEvent}
    (h : s.pending = cmdWrite w :: rest) : step s = execute w { s with pending := rest } := by
  unfold step
  rw [h]
  rfl

end Sys2Proof.Machine
end

