-- ==== Sys2Proof/Laws/PerInstr.lean ====
section
/-! SUPPORT. What holds of every command as syntax, one lemma per constructor. -/

namespace Sys2Proof.Laws

/-- The word of a command: `RSV` zero, its unit's code and its op code in their fields (R110), the unit's
code one that R112 lists, and so a word the format allows. -/
def WordShape.Statement (i : Instr) : Prop :=
  wellFormed i = true ∧ rsvField (encode i) = 0#20 ∧ unitField (encode i) = i.unit.code ∧
    opField (encode i) = i.op ∧ unitOfCode i.unit.code.toNat = some i.unit

theorem WordShape.bqInit : WordShape.Statement .bqInit := by unfold WordShape.Statement; decide
theorem WordShape.bqProcess : WordShape.Statement .bqProcess := by unfold WordShape.Statement; decide
theorem WordShape.bqClear : WordShape.Statement .bqClear := by unfold WordShape.Statement; decide
theorem WordShape.bqSetPeaking : WordShape.Statement .bqSetPeaking := by unfold WordShape.Statement; decide
theorem WordShape.bqSetLowshelf : WordShape.Statement .bqSetLowshelf := by unfold WordShape.Statement; decide
theorem WordShape.opInit : WordShape.Statement .opInit := by unfold WordShape.Statement; decide
theorem WordShape.opProcess : WordShape.Statement .opProcess := by unfold WordShape.Statement; decide
theorem WordShape.opClear : WordShape.Statement .opClear := by unfold WordShape.Statement; decide
theorem WordShape.opSetLowpass : WordShape.Statement .opSetLowpass := by unfold WordShape.Statement; decide
theorem WordShape.opSetHighpass : WordShape.Statement .opSetHighpass := by unfold WordShape.Statement; decide
theorem WordShape.lfoInit : WordShape.Statement .lfoInit := by unfold WordShape.Statement; decide
theorem WordShape.lfoProcess : WordShape.Statement .lfoProcess := by unfold WordShape.Statement; decide
theorem WordShape.lfoClear : WordShape.Statement .lfoClear := by unfold WordShape.Statement; decide
theorem WordShape.lfoSetFreq : WordShape.Statement .lfoSetFreq := by unfold WordShape.Statement; decide
theorem WordShape.lfoSetAmp : WordShape.Statement .lfoSetAmp := by unfold WordShape.Statement; decide
theorem WordShape.lfoSetWaveform : WordShape.Statement .lfoSetWaveform := by unfold WordShape.Statement; decide
theorem WordShape.dlyInit : WordShape.Statement .dlyInit := by unfold WordShape.Statement; decide
theorem WordShape.dlyProcess : WordShape.Statement .dlyProcess := by unfold WordShape.Statement; decide
theorem WordShape.dlyClear : WordShape.Statement .dlyClear := by unfold WordShape.Statement; decide
theorem WordShape.dlySetDelayTime : WordShape.Statement .dlySetDelayTime := by unfold WordShape.Statement; decide
theorem WordShape.dlySetFeedback : WordShape.Statement .dlySetFeedback := by unfold WordShape.Statement; decide
theorem WordShape.trsInit : WordShape.Statement .trsInit := by unfold WordShape.Statement; decide
theorem WordShape.trsProcess : WordShape.Statement .trsProcess := by unfold WordShape.Statement; decide
theorem WordShape.trsSetSpeed : WordShape.Statement .trsSetSpeed := by unfold WordShape.Statement; decide
theorem WordShape.trsSetDepth : WordShape.Statement .trsSetDepth := by unfold WordShape.Statement; decide
theorem WordShape.trsGetLastLfo : WordShape.Statement .trsGetLastLfo := by unfold WordShape.Statement; decide
theorem WordShape.trqInit : WordShape.Statement .trqInit := by unfold WordShape.Statement; decide
theorem WordShape.trqProcess : WordShape.Statement .trqProcess := by unfold WordShape.Statement; decide
theorem WordShape.trqSetSpeed : WordShape.Statement .trqSetSpeed := by unfold WordShape.Statement; decide
theorem WordShape.trqSetDepth : WordShape.Statement .trqSetDepth := by unfold WordShape.Statement; decide
theorem WordShape.trqGetLastLfo : WordShape.Statement .trqGetLastLfo := by unfold WordShape.Statement; decide
theorem WordShape.trhInit : WordShape.Statement .trhInit := by unfold WordShape.Statement; decide
theorem WordShape.trhProcess : WordShape.Statement .trhProcess := by unfold WordShape.Statement; decide
theorem WordShape.trhSetSpeed : WordShape.Statement .trhSetSpeed := by unfold WordShape.Statement; decide
theorem WordShape.trhSetDepth : WordShape.Statement .trhSetDepth := by unfold WordShape.Statement; decide
theorem WordShape.trhGetLastLfo : WordShape.Statement .trhGetLastLfo := by unfold WordShape.Statement; decide
theorem WordShape.rvpInit : WordShape.Statement .rvpInit := by unfold WordShape.Statement; decide
theorem WordShape.rvpProcess : WordShape.Statement .rvpProcess := by unfold WordShape.Statement; decide
theorem WordShape.rvpClear : WordShape.Statement .rvpClear := by unfold WordShape.Statement; decide
theorem WordShape.rvpSetMix : WordShape.Statement .rvpSetMix := by unfold WordShape.Statement; decide
theorem WordShape.rvpSetDecay : WordShape.Statement .rvpSetDecay := by unfold WordShape.Statement; decide
theorem WordShape.rvpSetDiffusion : WordShape.Statement .rvpSetDiffusion := by unfold WordShape.Statement; decide
theorem WordShape.rvpSetPredelay : WordShape.Statement .rvpSetPredelay := by unfold WordShape.Statement; decide
theorem WordShape.rvpSetInputHighcut : WordShape.Statement .rvpSetInputHighcut := by unfold WordShape.Statement; decide
theorem WordShape.rvpSetTankHighcut : WordShape.Statement .rvpSetTankHighcut := by unfold WordShape.Statement; decide
theorem WordShape.rvpSetTankModSpeed : WordShape.Statement .rvpSetTankModSpeed := by unfold WordShape.Statement; decide
theorem WordShape.rvpSetTankModDepth : WordShape.Statement .rvpSetTankModDepth := by unfold WordShape.Statement; decide
theorem WordShape.rvpSetTankModShape : WordShape.Statement .rvpSetTankModShape := by unfold WordShape.Statement; decide
theorem WordShape.rvhInit : WordShape.Statement .rvhInit := by unfold WordShape.Statement; decide
theorem WordShape.rvhProcess : WordShape.Statement .rvhProcess := by unfold WordShape.Statement; decide
theorem WordShape.rvhClear : WordShape.Statement .rvhClear := by unfold WordShape.Statement; decide
theorem WordShape.rvhSetMix : WordShape.Statement .rvhSetMix := by unfold WordShape.Statement; decide
theorem WordShape.rvhSetDecay : WordShape.Statement .rvhSetDecay := by unfold WordShape.Statement; decide
theorem WordShape.rvhSetDiffusion : WordShape.Statement .rvhSetDiffusion := by unfold WordShape.Statement; decide
theorem WordShape.rvhSetPredelay : WordShape.Statement .rvhSetPredelay := by unfold WordShape.Statement; decide
theorem WordShape.rvhSetInputHighcut : WordShape.Statement .rvhSetInputHighcut := by unfold WordShape.Statement; decide
theorem WordShape.rvhSetTankHighcut : WordShape.Statement .rvhSetTankHighcut := by unfold WordShape.Statement; decide
theorem WordShape.rvhSetTankModSpeed : WordShape.Statement .rvhSetTankModSpeed := by unfold WordShape.Statement; decide
theorem WordShape.rvhSetTankModDepth : WordShape.Statement .rvhSetTankModDepth := by unfold WordShape.Statement; decide
theorem WordShape.rvhSetTankModShape : WordShape.Statement .rvhSetTankModShape := by unfold WordShape.Statement; decide
theorem WordShape.rvsInit : WordShape.Statement .rvsInit := by unfold WordShape.Statement; decide
theorem WordShape.rvsProcess : WordShape.Statement .rvsProcess := by unfold WordShape.Statement; decide
theorem WordShape.rvsClear : WordShape.Statement .rvsClear := by unfold WordShape.Statement; decide
theorem WordShape.rvsSetMix : WordShape.Statement .rvsSetMix := by unfold WordShape.Statement; decide
theorem WordShape.rvsSetDecay : WordShape.Statement .rvsSetDecay := by unfold WordShape.Statement; decide
theorem WordShape.rvsSetDiffusion : WordShape.Statement .rvsSetDiffusion := by unfold WordShape.Statement; decide
theorem WordShape.rvsSetPredelay : WordShape.Statement .rvsSetPredelay := by unfold WordShape.Statement; decide
theorem WordShape.rvsSetInputHighcut : WordShape.Statement .rvsSetInputHighcut := by unfold WordShape.Statement; decide
theorem WordShape.rvsSetTankHighcut : WordShape.Statement .rvsSetTankHighcut := by unfold WordShape.Statement; decide
theorem WordShape.rvsSetTankModSpeed : WordShape.Statement .rvsSetTankModSpeed := by unfold WordShape.Statement; decide
theorem WordShape.rvsSetTankModDepth : WordShape.Statement .rvsSetTankModDepth := by unfold WordShape.Statement; decide
theorem WordShape.rvsSetTankModShape : WordShape.Statement .rvsSetTankModShape := by unfold WordShape.Statement; decide

end Sys2Proof.Laws
end

