-- ==== Sys2Proof/Tests/Slice0.lean ====
section
/-! SUPPORT. The model's own tests: words decoded as 30_encoding.md writes them, what the well-formedness
checks refuse, single steps whose results the spec works out (95_test_vectors.md), and for every statement
with hypotheses a state that meets them. -/

namespace Sys2Proof.Tests

open Sys2Proof Sys2Proof.Machine

/-! ## Decoding: every word of R114, written out -/

theorem test_decode_bq :
    decode 0x00000000#32 = .ok .bqInit ∧
    decode 0x00000001#32 = .ok .bqProcess ∧
    decode 0x00000002#32 = .ok .bqClear ∧
    decode 0x00000010#32 = .ok .bqSetPeaking ∧
    decode 0x00000011#32 = .ok .bqSetLowshelf := by
  refine ⟨rfl, rfl, rfl, rfl, rfl⟩

theorem test_decode_op :
    decode 0x00000100#32 = .ok .opInit ∧
    decode 0x00000101#32 = .ok .opProcess ∧
    decode 0x00000102#32 = .ok .opClear ∧
    decode 0x00000110#32 = .ok .opSetLowpass ∧
    decode 0x00000111#32 = .ok .opSetHighpass := by
  refine ⟨rfl, rfl, rfl, rfl, rfl⟩

theorem test_decode_lfo :
    decode 0x00000200#32 = .ok .lfoInit ∧
    decode 0x00000201#32 = .ok .lfoProcess ∧
    decode 0x00000202#32 = .ok .lfoClear ∧
    decode 0x00000210#32 = .ok .lfoSetFreq ∧
    decode 0x00000211#32 = .ok .lfoSetAmp ∧
    decode 0x00000212#32 = .ok .lfoSetWaveform := by
  refine ⟨rfl, rfl, rfl, rfl, rfl, rfl⟩

theorem test_decode_dly :
    decode 0x00000300#32 = .ok .dlyInit ∧
    decode 0x00000301#32 = .ok .dlyProcess ∧
    decode 0x00000302#32 = .ok .dlyClear ∧
    decode 0x00000310#32 = .ok .dlySetDelayTime ∧
    decode 0x00000311#32 = .ok .dlySetFeedback := by
  refine ⟨rfl, rfl, rfl, rfl, rfl⟩

theorem test_decode_trs :
    decode 0x00000400#32 = .ok .trsInit ∧
    decode 0x00000401#32 = .ok .trsProcess ∧
    decode 0x00000410#32 = .ok .trsSetSpeed ∧
    decode 0x00000411#32 = .ok .trsSetDepth ∧
    decode 0x00000420#32 = .ok .trsGetLastLfo := by
  refine ⟨rfl, rfl, rfl, rfl, rfl⟩

theorem test_decode_trq :
    decode 0x00000500#32 = .ok .trqInit ∧
    decode 0x00000501#32 = .ok .trqProcess ∧
    decode 0x00000510#32 = .ok .trqSetSpeed ∧
    decode 0x00000511#32 = .ok .trqSetDepth ∧
    decode 0x00000520#32 = .ok .trqGetLastLfo := by
  refine ⟨rfl, rfl, rfl, rfl, rfl⟩

theorem test_decode_trh :
    decode 0x00000600#32 = .ok .trhInit ∧
    decode 0x00000601#32 = .ok .trhProcess ∧
    decode 0x00000610#32 = .ok .trhSetSpeed ∧
    decode 0x00000611#32 = .ok .trhSetDepth ∧
    decode 0x00000620#32 = .ok .trhGetLastLfo := by
  refine ⟨rfl, rfl, rfl, rfl, rfl⟩

theorem test_decode_rvp :
    decode 0x00000700#32 = .ok .rvpInit ∧
    decode 0x00000701#32 = .ok .rvpProcess ∧
    decode 0x00000702#32 = .ok .rvpClear ∧
    decode 0x00000710#32 = .ok .rvpSetMix ∧
    decode 0x00000711#32 = .ok .rvpSetDecay ∧
    decode 0x00000712#32 = .ok .rvpSetDiffusion ∧
    decode 0x00000713#32 = .ok .rvpSetPredelay ∧
    decode 0x00000714#32 = .ok .rvpSetInputHighcut ∧
    decode 0x00000715#32 = .ok .rvpSetTankHighcut ∧
    decode 0x00000716#32 = .ok .rvpSetTankModSpeed ∧
    decode 0x00000717#32 = .ok .rvpSetTankModDepth ∧
    decode 0x00000718#32 = .ok .rvpSetTankModShape := by
  refine ⟨rfl, rfl, rfl, rfl, rfl, rfl, rfl, rfl, rfl, rfl, rfl, rfl⟩

theorem test_decode_rvh :
    decode 0x00000800#32 = .ok .rvhInit ∧
    decode 0x00000801#32 = .ok .rvhProcess ∧
    decode 0x00000802#32 = .ok .rvhClear ∧
    decode 0x00000810#32 = .ok .rvhSetMix ∧
    decode 0x00000811#32 = .ok .rvhSetDecay ∧
    decode 0x00000812#32 = .ok .rvhSetDiffusion ∧
    decode 0x00000813#32 = .ok .rvhSetPredelay ∧
    decode 0x00000814#32 = .ok .rvhSetInputHighcut ∧
    decode 0x00000815#32 = .ok .rvhSetTankHighcut ∧
    decode 0x00000816#32 = .ok .rvhSetTankModSpeed ∧
    decode 0x00000817#32 = .ok .rvhSetTankModDepth ∧
    decode 0x00000818#32 = .ok .rvhSetTankModShape := by
  refine ⟨rfl, rfl, rfl, rfl, rfl, rfl, rfl, rfl, rfl, rfl, rfl, rfl⟩

theorem test_decode_rvs :
    decode 0x00000900#32 = .ok .rvsInit ∧
    decode 0x00000901#32 = .ok .rvsProcess ∧
    decode 0x00000902#32 = .ok .rvsClear ∧
    decode 0x00000910#32 = .ok .rvsSetMix ∧
    decode 0x00000911#32 = .ok .rvsSetDecay ∧
    decode 0x00000912#32 = .ok .rvsSetDiffusion ∧
    decode 0x00000913#32 = .ok .rvsSetPredelay ∧
    decode 0x00000914#32 = .ok .rvsSetInputHighcut ∧
    decode 0x00000915#32 = .ok .rvsSetTankHighcut ∧
    decode 0x00000916#32 = .ok .rvsSetTankModSpeed ∧
    decode 0x00000917#32 = .ok .rvsSetTankModDepth ∧
    decode 0x00000918#32 = .ok .rvsSetTankModShape := by
  refine ⟨rfl, rfl, rfl, rfl, rfl, rfl, rfl, rfl, rfl, rfl, rfl, rfl⟩

/-- V-ENC-1: the words it lists with a verdict. -/
theorem test_decode_verdicts :
    decode 0x00000919#32 = .error .badOp ∧ decode 0x00000402#32 = .error .badOp ∧
    decode 0x00000502#32 = .error .badOp ∧ decode 0x00000602#32 = .error .badOp ∧
    decode 0x00000020#32 = .error .badOp ∧ decode 0x00000320#32 = .error .badOp ∧
    decode 0x00000312#32 = .error .badOp ∧ decode 0x00000103#32 = .error .badOp ∧
    decode 0x000001FF#32 = .error .badOp ∧ decode 0x00000A00#32 = .error .badUnit ∧
    decode 0x00000F01#32 = .error .badUnit ∧ decode 0x00001000#32 = .error .reservedBits ∧
    decode 0x80000001#32 = .error .reservedBits ∧ decode 0x00001A02#32 = .error .reservedBits := by
  refine ⟨rfl, rfl, rfl, rfl, rfl, rfl, rfl, rfl, rfl, rfl, rfl, rfl, rfl, rfl⟩

/-- R81: the first byte on the bus is the least significant. -/
theorem test_decode_bytes :
    decodeBytes [0x12#8, 0x02#8, 0x00#8, 0x00#8] = some .lfoSetWaveform ∧
    decodeBytes [0x00#8, 0x00#8, 0x02#8, 0x12#8] = none ∧
    decodeTableWord 32 0x00000918 = some .rvsSetTankModShape ∧ decodeTableWord 32 0x00000919 = none := by
  refine ⟨rfl, rfl, rfl, rfl⟩

/-! ## Well-formedness: each check refuses an ill-formed term -/

theorem test_wf_word :
    wellFormedWord 0x00001000#32 = false ∧ wellFormedWord 0x00000A00#32 = false ∧
    wellFormedWord 0x00000402#32 = false ∧ wellFormedWord 0x00000918#32 = true := by decide

theorem test_wf_access :
    (⟨.read, .w32, 0x40#32, 0#32⟩ : Access).admitted = false ∧
    (⟨.read, .w16, 0x04#32, 0#32⟩ : Access).admitted = false ∧
    (⟨.write, .w32, 0x02#32, 0#32⟩ : Access).admitted = false ∧
    (⟨.write, .w32, 0x3C#32, 0#32⟩ : Access).admitted = true := by decide

/-! ## Vectors of 95_test_vectors.md

The transcendental functions of `exCfg` are the correctly rounded values (hypothesis H-CR) at the
operands these vectors use, and 0 elsewhere. -/

def exSin (x : F32) : F32 :=
  if x = 0x3F490FDB#32 then 0x3F3504F3#32 else if x = 0x4016CBE4#32 then 0x3F3504F3#32
  else if x = 0x3FC90FDB#32 then 0x3F800000#32 else 0#32
def exAtan (x : F32) : F32 :=
  if x = 0x403504F3#32 then 0x3F9D9014#32 else if x = 0x40800000#32 then 0x3FA9B465#32 else 0#32

/-- Configuration EX, as far as the vectors below use it. -/
def exCfg : Cfg where
  sin := exSin
  cos := fun x => if x = 0x3FC90FDB#32 then 0xB33BBD2E#32 else 0#32
  exp := fun x => if x = 0xBC9A6A62#32 then 0x3F7B383F#32 else 0#32
  pow10 := fun x => if x = 0x3E9A209A#32 then 0x3FFFFFFF#32 else 0#32
  atan := exAtan
  tanh := fun x => if x = 0x3F800000#32 then 0x3F42F7D6#32 else 0#32
  rsqK := 0x40800000#32
  maxDelaySamples := 6
  bqFcMin := 0x3F800000#32
  bqFcMaxFrac := 0x3EFAE148#32
  bqQMin := 0x3DCCCCCD#32
  bqQMax := 0x41200000#32
  bqGainMinDb := 0xC1C00000#32
  bqGainMaxDb := 0x41C00000#32
  opFcMin := 0x3F800000#32
  opFcMaxFrac := 0x3EFAE148#32
  rvsLen := 4
  rvsTap := fun j => if j = 0 then 1 else 2
  rvsTapGain := fun j => if j = 0 then 0x3F000000#32 else 0x3E800000#32
  rvsDecayMax := 0x3F666666#32

/-- A computation from no draws: its result and how many NaNs it drew. -/
def run0 {α : Type} (p : Dp α) : α × Nat := p 0

/-- An oscillator with phase, increment 0.125, amplitude and waveform. -/
def exOsc (φ amp : F32) (w : Wave) : Osc :=
  { Osc.initial with phase := φ, inc := 0x3E000000#32, amp := amp, wave := w }

/-- V-LFO-1, steps 1 and 3 (both quadrants, and the half-cycle flag). -/
theorem test_lfo_sine :
    run0 (oscStep exCfg (exOsc 0x3E000000#32 F32.one .sine)) =
      ((0x3F3504F3#32, exOsc 0x3E800000#32 F32.one .sine), 0) ∧
    (run0 (oscStep exCfg (exOsc 0x3EC00000#32 F32.one .sine))).1.1 = 0x3F3504F3#32 ∧
    flagWord (run0 (oscStep exCfg (exOsc 0x3EC00000#32 F32.one .sine))).1.2 = 2#32 ∧
    flagWord (run0 (advance exCfg (exOsc 0x3F600000#32 F32.one .sine))).1 = 1#32 := by
  refine ⟨by decide +kernel, by decide +kernel, by decide +kernel, by decide +kernel⟩

/-- V-LFO-4, phase 0.125. -/
theorem test_lfo_rsquare : run0 (shape exCfg .rsquare 0x3E000000#32) = (0x3F6DAF18#32, 0) := by decide +kernel

/-- V-LFO-3: 100 Hz and −1 Hz at a rate of 8 Hz. -/
theorem test_setFreq :
    run0 (setFreq exCfg Osc.initial 0x42C80000#32 0x41000000#32) =
      ({ Osc.initial with freq := 0x40800000#32, inc := 0x3F000000#32 }, 0) ∧
    run0 (setFreq exCfg Osc.initial 0xBF800000#32 0x41000000#32) = (Osc.initial, 0) := by
  refine ⟨by decide +kernel, by decide +kernel⟩

/-- V-LFO-5: the waveform operand, a NaN pattern among them. -/
theorem test_waveOf :
    waveOf 1#32 = .rsquare ∧ waveOf 7#32 = .sine ∧ waveOf 0x7FC00000#32 = .sine := by decide

def exPeak : BqCoef := ⟨0x40000000#32, 0x337A5193#32, 0xBF2AAAA9#32, 0x337A5193#32, 0x3EAAAAA9#32⟩

/-- V-BQ-2: the coefficients. -/
theorem test_peaking :
    run0 (peakClamped exCfg 0x463B8000#32 0x3F000000#32 0x4140A8C1#32 0x473B8000#32) = (exPeak, 0) := by
  decide +kernel

/-- V-BQ-2: step 1 of the impulse response. -/
theorem test_bq2 :
    run0 (bq2 exCfg exPeak ⟨0x3F800000#32, 0#32, 0x40000000#32, 0#32⟩ 0#32) =
      ((0xB37A5193#32, ⟨0#32, 0x3F800000#32, 0xB37A5193#32, 0x40000000#32⟩), 0) := by decide +kernel

/-- V-BQ-3: the coefficients. -/
theorem test_lowshelf :
    run0 (shelfClamped exCfg 0x463B8000#32 0x3FB504F3#32 0x4140A8C1#32 0x473B8000#32) =
      (⟨0x3FFFFFFF#32, 0x3F7FFFFF#32, 0x3F7FFFFF#32, 0xBEFFFFFC#32, 0x3F000000#32⟩, 0) := by
  decide +kernel

/-- V-BQ-4: fc' = 23520, Q' = 0.5, gain' = 24 dB; and fc' = 1, Q' = 0.1. -/
theorem test_bqClamps :
    run0 (bqClamps exCfg 0x473B8000#32 0x3F000000#32 0x42C80000#32 0x473B8000#32) =
      ((0x46B7C000#32, 0x3F000000#32, 0x41C00000#32), 0) ∧
    run0 (bqClamps exCfg 0#32 0#32 0#32 0x473B8000#32) = ((0x3F800000#32, 0x3DCCCCCD#32, 0#32), 0) := by
  refine ⟨by decide +kernel, by decide +kernel⟩

/-- V-OP-1 and V-OP-2: the second step. -/
theorem test_lp1_hp1 :
    run0 (lp1 exCfg 0x3F000000#32 0x3F000000#32 0x3F800000#32) = (0x3F400000#32, 0) ∧
    run0 (hp1 exCfg 0x3F000000#32 0x3F000000#32 0x3F800000#32) = ((0x3E800000#32, 0x3F400000#32), 0) := by
  refine ⟨by decide +kernel, by decide +kernel⟩

/-- V-OP-3: 144 Hz at a rate of 48000 Hz. -/
theorem test_opCoef : run0 (opCoefClamped exCfg 0x43100000#32 0x473B8000#32) = (0x3C98F820#32, 0) := by
  decide +kernel

/-- A delay with the impulse 1 written two steps ago on the left. -/
def exDly : DlyUnit :=
  { init := true, fs := 0x41000000#32, lineL := ⟨[(0, 0x3F800000#32)], 2⟩, lineR := ⟨[], 2⟩,
    dt := 0x40200000#32, dc := 0x3F800000#32, fb := 0#32, dmax := 0x40C00000#32,
    dlo := 0x3F800000#32 }

/-- V-DLY-2, step 2: half of the impulse, and the smoothed delay time at its target. -/
theorem test_dly :
    run0 (dlyStep exCfg exDly 0#32 0#32) =
      (some ({ exDly with dc := 0x40200000#32, lineL := ⟨[(0, 0x3F800000#32)], 3⟩, lineR := ⟨[], 3⟩ },
        0x3F000000#32, 0#32), 0) := by decide +kernel

/-- V-DLY-3: with smoothing 0.5, dc goes from 1 to 3 on the way to 5. -/
theorem test_dly_smooth :
    run0 (dlyDelay { maxDelaySamples := 6, dlySmooth := 0x3F000000#32 }
      { exDly with dt := 0x40A00000#32 }) = ((0x40400000#32, 0x40400000#32), 0) := by decide +kernel

/-- V-DLY-5: the clamps of 10, 0 and 2.5 to 1..6. -/
theorem test_dly_clamp :
    run0 (exCfg.clamp 0x41200000#32 0x3F800000#32 0x40C00000#32) = (0x40C00000#32, 0) ∧
    run0 (exCfg.clamp 0#32 0x3F800000#32 0x40C00000#32) = (0x3F800000#32, 0) ∧
    run0 (exCfg.clamp 0x40200000#32 0x3F800000#32 0x40C00000#32) = (0x40200000#32, 0) := by
  refine ⟨by decide +kernel, by decide +kernel, by decide +kernel⟩

def exTrm (w : Wave) : TrmUnit :=
  { init := true, fs := 0x41000000#32, o := exOsc 0x3E000000#32 F32.half w, depth := F32.one,
    last := 0#32 }

/-- V-TRS-1, step 1. -/
theorem test_trs :
    (run0 (trmStep exCfg (exTrm .sine) F32.one F32.one)).1.2 = (0x3F5A827A#32, 0x3F5A827A#32) ∧
    (run0 (trmStep exCfg (exTrm .sine) F32.one F32.one)).1.1.last = 0x3EB504F3#32 := by
  refine ⟨by decide +kernel, by decide +kernel⟩

/-- V-TRQ-1, phase 0.125. -/
theorem test_trq :
    (run0 (trmStep exCfg (exTrm .rsquare) F32.one F32.one)).1.2 = (0x3F76D78C#32, 0x3F76D78C#32) := by
  decide +kernel

def exTrh : TrhUnit :=
  { init := true, fs := 0x473B8000#32, o := exOsc 0#32 0#32 .sine, depth := 0#32, last := 0#32,
    k := ⟨0x3C98F820#32, 0x3DA398A0#32, 0x3B2B5900#32, 0x3F6D5336#32, BqCoef.identity,
      BqCoef.identity, BqCoef.identity⟩,
    chL := TrhChan.zero, chR := TrhChan.zero }

/-- V-TRH-2, step 0. -/
theorem test_trh :
    (run0 (trhStep exCfg exTrh F32.one F32.one)).1.2 = (0x3F5E3762#32, 0x3F5E3762#32) := by decide +kernel

/-- V-TRH-3: depth 1 gives amplitude 1.25; 0.8 gives 1.0. -/
theorem test_setDepth_trh :
    run0 (setDepth exCfg Osc.initial F32.one Config.trhDepthScale) =
      ((F32.one, { Osc.initial with amp := 0x3FA00000#32 }), 0) ∧
    run0 (setDepth exCfg Osc.initial 0x3F4CCCCD#32 Config.trhDepthScale) =
      ((0x3F4CCCCD#32, Osc.initial), 0) := by
  refine ⟨by decide +kernel, by decide +kernel⟩

/-- V-RV-1. -/
theorem test_mixLaw :
    run0 (mixLaw exCfg 0x3E800000#32 F32.one 0x3F000000#32) = (0x3F600000#32, 0) ∧
    run0 (mixLaw exCfg F32.zero 0x3E99999A#32 0x429A0000#32) = (0x3E99999A#32, 0) ∧
    run0 (mixLaw exCfg F32.one 0x3E99999A#32 0x3F333333#32) = (0x3F333333#32, 0) ∧
    run0 (mixLaw exCfg F32.one F32.one 0x80000000#32) = (0#32, 0) := by
  refine ⟨by decide +kernel, by decide +kernel, by decide +kernel, by decide +kernel⟩

/-- V-RV-2: positions 2, 3 and 0xFFFFFFFF. -/
theorem test_posMap : posMap 0 = 0 ∧ posMap 2 = 2 ∧ posMap 3 = 1 ∧ posMap 0xFFFFFFFF = 1 := by
  refine ⟨rfl, rfl, rfl, rfl⟩

/-- V-RVP-1: `PLATE.apply` sees the whole parameter set, the table value of the position included. -/
theorem test_rvpApply :
    (rvpApply { plate := { apply := fun σ p => p.decay :: p.speed :: σ },
                rvpSpeedTable := fun p => if p = 2 then F32.two else 0#32 }
      { init := true, fs := 0#32, p := RvParams.blank, sigma := [7#32] }
      { RvParams.blank with decay := F32.half, spos := 2 }).sigma = [F32.half, F32.two, 7#32] := by
  decide +kernel

/-- V-RVH-1c. -/
theorem test_had8 :
    run0 (had8 exCfg ⟨0x3F800000#32, 0x40000000#32, 0x40400000#32, 0x40800000#32, 0x40A00000#32,
      0x40C00000#32, 0x40E00000#32, 0x41000000#32⟩) =
      (⟨0x414BA591#32, 0xBFB504F3#32, 0xC03504F3#32, 0#32, 0xC0B504F3#32, 0#32, 0#32, 0#32⟩, 0) := by
  decide +kernel

/-- The Hall of V-RVH-2 with g = 0.5, just before step 4. -/
def exRvh : RvhUnit :=
  { init := true, fs := 0x473B8000#32, p := { RvParams.blank with mix := F32.one }, pre := ⟨[], 0⟩,
    pd := 0, ap0 := ⟨[], 0⟩, ap1 := ⟨[], 0⟩,
    ln := { Eight.all (⟨[], 0⟩ : Line) with a0 := ⟨[(0, F32.one)], 2⟩ }, z := Eight.all 0#32,
    g := F32.half, ad := F32.one, o := { Osc.initial with wave := .triangle } }

/-- V-RVH-2, step 4: line 0's sample on the left, and g·m into every line. -/
theorem test_rvh :
    ((run0 (rvhStep exCfg exRvh 0#32 0#32)).1.map fun r => (r.2.1, r.2.2, r.1.ln.a7.buf)) =
      some (F32.one, 0#32, [(0, 0x3E3504F3#32)]) := by decide +kernel

/-- V-RVH-3: 1.5 and 2.5 round to 2. -/
theorem test_hallPd :
    run0 (hallPd { rvhPredelayMax := 3 } F32.half) = (2, 0) ∧
    run0 (hallPd { rvhPredelayMax := 5 } F32.half) = (2, 0) := by
  refine ⟨by decide +kernel, by decide +kernel⟩

/-- The Spring of V-RVS-1 just before step 5. -/
def exRvs : RvsUnit :=
  { init := true, fs := 0x473B8000#32, p := { RvParams.blank with mix := F32.one },
    wg := ⟨[(4, 0x3F42F7D6#32)], 0⟩, da0 := ⟨[], 1⟩, da1 := ⟨[], 1⟩, da2 := ⟨[], 1⟩,
    da3 := ⟨[], 1⟩, z := 0#32, g := F32.half }

/-- V-RVS-1, step 5; and step 0, where the driven input enters the first all-pass. -/
theorem test_rvs :
    (run0 (rvsStep exCfg exRvs 0#32 0#32)).1.2 = (0x3EC2F7D6#32, 0x3EC2F7D6#32) ∧
    (run0 (rvsStep exCfg exRvs F32.one F32.one)).1.1.da0 = ⟨[(1, 0x3F42F7D6#32)], 0⟩ := by
  refine ⟨by decide +kernel, by decide +kernel⟩

/-- V-ERR-1 to V-ERR-4 and V-ERR-6: what each first error records. -/
theorem test_errors :
    execute 0x00001000#32 State.reset =
      .next { State.reset with err := true, cause := 1#8, errcmd := 0x00001000#32 } ∧
    execute 0x00000A00#32 State.reset =
      .next { State.reset with err := true, cause := 2#8, errcmd := 0x00000A00#32 } ∧
    execute 0x00000402#32 State.reset =
      .next { State.reset with err := true, cause := 3#8, errcmd := 0x00000402#32 } ∧
    execute 0x00000001#32 State.reset =
      .next { State.reset with err := true, cause := 4#8, errcmd := 0x00000001#32 } ∧
    memWrite execute 0x3C 1#32 State.reset =
      .next { State.reset with err := true, cause := 6#8, errcmd := 0x0000003C#32 } := by
  refine ⟨rfl, rfl, rfl, rfl, rfl⟩

/-- V-ERR-5: `INIT` with a NaN, an infinity, either zero, and −1. -/
theorem test_bad_operand :
    ∀ x ∈ [0x7FC00000#32, 0x7F800000#32, 0x00000000#32, 0x80000000#32, 0xBF800000#32],
      execute 0x00000000#32 { State.reset with arg0 := x } =
        .next { State.reset with arg0 := x, err := true, cause := 5#8, errcmd := 0#32 } := by
  simp only [List.forall_mem_cons]
  refine ⟨rfl, rfl, rfl, rfl, rfl, by simp⟩

/-- V-REG-1: `STATUS` after `BQ.INIT` and `LFO.INIT`, and of an error with DLY initialised (P2); the constant
and a reserved offset. -/
theorem test_window :
    statusWord { State.reset with
      bq := { State.reset.bq with init := true },
      lfo := { State.reset.lfo with init := true } } = 0x00050000#32 ∧
    statusWord { State.reset with err := true, dly := { State.reset.dly with init := true } } =
      0x00080001#32 ∧
    memRead 0x24 State.reset = 0x464C4B01#32 ∧ memRead 0x28 State.reset = 0#32 := by decide

/-- P1: after `BQ.INIT` at 48000 the section is the identity: 0.25 in, 0.25 out (V-BQ-4). -/
theorem test_bq_identity :
    run0 (bq2 exCfg BqCoef.identity BqHist.zero 0x3E800000#32) =
      ((0x3E800000#32, ⟨0x3E800000#32, 0#32, 0x3E800000#32, 0#32⟩), 0) := by decide +kernel

/-- R13, R16: rounding to even, overflow, a gradual underflow, an exact square root and a NaN. -/
theorem test_arithmetic :
    F32.add 0x4B800000#32 0x3F800000#32 = some 0x4B800000#32 ∧
    F32.add 0x7F7FFFFF#32 0x7F7FFFFF#32 = some 0x7F800000#32 ∧
    F32.mul 0x00800000#32 0x3F000000#32 = some 0x00400000#32 ∧
    F32.sqrt 0x40800000#32 = some 0x40000000#32 ∧ F32.sub 0x7F800000#32 0x7F800000#32 = none := by
  refine ⟨by decide +kernel, by decide +kernel, by decide +kernel, by decide +kernel, by decide +kernel⟩

/-! ## Witnesses: for every statement with hypotheses, a state and operands that meet them

`ex a0 a1` is a block whose ten units are initialised at 48000 Hz, with `ARG0` = a0 and `ARG1` = a1. -/

def exFs : F32 := 0x473B8000#32

def exO (w : Wave) : Osc := { Osc.initial with phase := 0x3E800000#32, wave := w }

def ex (a0 a1 : Word) : State :=
  { State.reset with
    arg0 := a0
    arg1 := a1
    bq := { init := true, fs := exFs, c := BqCoef.identity, h := BqHist.zero }
    op := { init := true, fs := exFs, mode := .lp, a := F32.one, y := F32.zero }
    lfo := { init := true, fs := exFs, o := exO .sine }
    dly :=
      { init := true, fs := exFs, lineL := ⟨[(0, F32.half)], 1⟩, lineR := ⟨[(0, F32.half)], 1⟩,
        dt := F32.one, dc := F32.one, fb := F32.zero,
        dmax := F32.ofNat Config.cfg.maxDelaySamples, dlo := F32.one }
    trs := { init := true, fs := exFs, o := exO .sine, depth := F32.zero, last := F32.zero }
    trq := { init := true, fs := exFs, o := exO .rsquare, depth := F32.zero, last := F32.zero }
    trh :=
      { init := true, fs := exFs, o := exO .sine, depth := F32.zero, last := F32.zero,
        k := TrhCoef.blank, chL := TrhChan.zero, chR := TrhChan.zero }
    rvp := { init := true, fs := exFs, p := RvParams.blank, sigma := [] }
    rvh :=
      { init := true, fs := exFs, p := RvParams.blank, pre := Line.zero, pd := 0, ap0 := Line.zero,
        ap1 := Line.zero, ln := Eight.all Line.zero, z := Eight.all F32.zero, g := F32.zero,
        ad := F32.one, o := exO .triangle }
    rvs :=
      { init := true, fs := exFs, p := RvParams.blank, wg := Line.zero, da0 := Line.zero,
        da1 := Line.zero, da2 := Line.zero, da3 := Line.zero, z := F32.zero, g := F32.zero } }

/-- A sample of 0.5 in each channel; the rate operand of an `INIT`; a NaN. -/
def exIn : State := ex F32.half F32.half
@[inherit_doc exIn] def exRate : State := { State.reset with arg0 := exFs }
@[inherit_doc exIn] def exNaN : State := ex 0x7FC00000#32 F32.half

/-- Of `DecodeVerdicts` and `UndefinedWordsRaise`: each verdict at both ends of its range, a word that is a
command's, and that no command has the two undefined ones. -/
theorem wit_decode_words :
    (0x00001000#32 : Word).toNat / 2 ^ 12 ≠ 0 ∧ (0xFFFFFFFF#32 : Word).toNat / 2 ^ 12 ≠ 0 ∧
    (0x00000A00#32 : Word).toNat / 2 ^ 12 = 0 ∧ 0xA ≤ (0x00000A00#32 : Word).toNat / 2 ^ 8 ∧
    (0x00000FFF#32 : Word).toNat / 2 ^ 12 = 0 ∧ 0xA ≤ (0x00000FFF#32 : Word).toNat / 2 ^ 8 ∧
    (0x000009FF#32 : Word).toNat / 2 ^ 12 = 0 ∧ (0x000009FF#32 : Word).toNat / 2 ^ 8 < 0xA ∧
    (∀ i, encode i ≠ 0x000009FF#32) ∧ (∀ i, encode i ≠ 0x00000402#32) ∧
    encode .bqInit = 0#32 := by
  refine ⟨by decide, by decide, by decide, by decide, by decide, by decide, by decide, by decide,
    fun i => ?_, fun i => ?_, rfl⟩ <;> cases i <;> decide

/-- Of `StepRunsDecoded`: a defined word, an undefined one, and an idle block. -/
theorem wit_StepRunsDecoded :
    ({ exIn with pending := [busWrite Config.cfg.base 0x00000001#32] } : State).pending =
      busWrite Config.cfg.base 0x00000001#32 :: [] ∧ decode 0x00000001#32 = .ok .bqProcess ∧
    ({ exIn with pending := [busWrite Config.cfg.base 0x00001000#32] } : State).pending =
      busWrite Config.cfg.base 0x00001000#32 :: [] ∧
    decode 0x00001000#32 = .error .reservedBits ∧ exIn.pending = [] :=
  ⟨rfl, rfl, rfl, rfl, rfl⟩

/-- Of `WindowWrites`: each clause, at the ends of its range. -/
theorem wit_WindowWrites :
    (4 ≤ 4 ∧ 4 < 16) ∧ (4 ≤ 15 ∧ 15 < 16) ∧
    (let a : Access := ⟨.read, .w8, 63#32, 0#32⟩; a.off.toNat < 64 ∧ a.width ≠ .w32) ∧
    (let a : Access := ⟨.write, .w64, 0#32, 0#32⟩; a.off.toNat < 64 ∧ a.width ≠ .w32) ∧
    (let a : Access := ⟨.read, .w32, 1#32, 0#32⟩;
      a.off.toNat < 64 ∧ a.width = .w32 ∧ a.off.toNat % 4 ≠ 0) ∧
    (let a : Access := ⟨.write, .w32, 63#32, 0#32⟩;
      a.off.toNat < 64 ∧ a.width = .w32 ∧ a.off.toNat % 4 ≠ 0) ∧
    (64 ≤ (⟨.read, .w32, 64#32, 0#32⟩ : Access).off.toNat) := by decide

/-- Of `WindowReads`: an admitted read of every register, and of both ends of the reserved offsets. -/
theorem wit_WindowReads :
    ([0x00#32, 0x04#32, 0x08#32, 0x0C#32, 0x10#32, 0x14#32, 0x18#32, 0x1C#32, 0x20#32, 0x24#32, 0x28#32,
      0x3C#32].all fun o => (⟨.read, .w32, o, 0#32⟩ : Access).admitted) = true := by decide

/-- Of `ResetWindow`. -/
theorem wit_ResetWindow :
    (∃ s, State.reset = blockReset s) ∧ (0x00 : Nat) ≠ 0x24 ∧
    ({ exIn with pending := [.blockReset] } : State).pending = .blockReset :: [] :=
  ⟨⟨State.reset, rfl⟩, by decide, rfl⟩

/-- A state with an error recorded and a write of an undefined word pending. -/
def exErr : State :=
  { exIn with err := true, cause := 4#8, errcmd := 1#32, pending := [cmdWrite 0x00001000#32] }

/-- Of `ErrorRecording`. -/
theorem wit_ErrorRecording :
    exIn.err = false ∧ exErr.err = true ∧ exErr.pending.head? ≠ some .blockReset ∧
    step exErr = .next { exErr with pending := [] } := ⟨rfl, rfl, by decide, rfl⟩

/-- Of `ErrorRecordKept`, with and without an error recorded. -/
theorem wit_ErrorRecordKept :
    ErrorRecord exErr ∧ step exErr = .next { exErr with pending := [] } ∧ ErrorRecord exIn ∧
    step exIn = .next exIn :=
  ⟨⟨by decide, by decide⟩, rfl, ⟨by decide, by decide⟩, rfl⟩

/-- Of `CommandChecks`: a unit not initialised, a NaN operand of `PROCESS` and of `INIT`, and the rates 0 and
−1. -/
theorem wit_CommandChecks :
    (Instr.bqProcess.op ≠ 0x00#8 ∧ unitInit Instr.bqProcess.unit State.reset = false) ∧
    (unitInit Instr.bqProcess.unit exNaN = true ∧ operandsFinite .bqProcess exNaN = false) ∧
    (Instr.bqInit.op = 0x00#8 ∧ operandsFinite .bqInit exNaN = false) ∧
    (F32.isFinite State.reset.arg0 = true ∧
      Config.cfg.lt F32.zero (Config.cfg.flush State.reset.arg0) = false) ∧
    (F32.isFinite (ex 0xBF800000#32 0#32).arg0 = true ∧
      Config.cfg.lt F32.zero (Config.cfg.flush (ex 0xBF800000#32 0#32).arg0) = false) :=
  ⟨⟨by decide, rfl⟩, ⟨rfl, rfl⟩, ⟨rfl, rfl⟩, ⟨rfl, by decide +kernel⟩,
    ⟨by decide +kernel, by decide +kernel⟩⟩

/-- Of `InitLifecycle`: a unit that stays initialised, and one that becomes so. -/
theorem wit_InitLifecycle :
    (step { exIn with pending := [cmdWrite 0x00000402#32] } =
        .next (exIn.raise .badOp 0x00000402#32) ∧ unitInit .bq exIn = true) ∧
    (∃ t, step { exRate with pending := [cmdWrite (encode .bqInit)] } = .next t ∧
      unitInit .bq { exRate with pending := [cmdWrite (encode .bqInit)] } = false ∧
      unitInit .bq t = true) := ⟨⟨rfl, rfl⟩, ⟨_, rfl, rfl, rfl⟩⟩

/-- Of `CommandFrame`, `UnitsIndependent`, `SampleMemoryFrame` and `ClearIdempotent`: `OP.CLEAR` passes its
checks and completes. -/
theorem wit_frames :
    exec .opClear exIn = .next { exIn with op := { exIn.op with y := 0#32 } } ∧
    producesResult .opClear = false ∧ Passes .opClear exIn ∧ Instr.opClear.op ≠ 0x00#8 ∧
    UnitId.bq ≠ Instr.opClear.unit ∧ Instr.opClear ≠ .dlyInit ∧ Instr.opClear ≠ .dlyClear ∧
    Instr.opClear ≠ .rvhInit ∧ Instr.opClear ≠ .rvhClear ∧ Instr.opClear ≠ .rvsInit ∧
    Instr.opClear ≠ .rvsClear ∧ Instr.opClear.op = 0x02#8 ∧
    unitInit Instr.opClear.unit exIn = true :=
  ⟨rfl, rfl, ⟨Or.inr rfl, rfl⟩, by decide, by decide, by decide, by decide, by decide, by decide,
    by decide, by decide, rfl, rfl⟩

/-- Of `CommandFrame` (its `INIT` side), `InitCompletes`, `InitDiscardsState`, `InitFiltersLfo`, `InitDelay`,
`InitTremolos` and `InitReverbs`: a valid rate, and two states that differ in a unit. -/
theorem wit_init :
    Instr.rvhInit.op = 0x00#8 ∧ F32.isFinite exRate.arg0 = true ∧
    Config.cfg.lt F32.zero exRate.f0 = true ∧ Passes .rvhInit exRate ∧
    exRate.arg0 = ({ exRate with bq := exIn.bq } : State).arg0 ∧
    exRate.draws = ({ exRate with bq := exIn.bq } : State).draws :=
  ⟨rfl, rfl, rfl, ⟨Or.inl rfl, rfl⟩, rfl, rfl⟩

/-- Of `UnitResultsLocal`: two states that differ in unit BQ alone. -/
theorem wit_UnitResultsLocal :
    let s' : State := { exIn with bq := State.reset.bq }
    exIn.arg0 = s'.arg0 ∧ exIn.arg1 = s'.arg1 ∧ exIn.arg2 = s'.arg2 ∧ exIn.draws = s'.draws ∧
    sameUnit Instr.opClear.unit exIn s' ∧ exIn.bq ≠ s'.bq ∧ exIn.res0 = s'.res0 ∧
    exIn.res1 = s'.res1 ∧
    exec .opClear exIn = .next { exIn with op := { exIn.op with y := 0#32 } } :=
  ⟨rfl, rfl, rfl, rfl, rfl, by decide, rfl, rfl, rfl⟩

/-- Of the statements of `PROCESS`, `CLEAR`, `GET_LAST_LFO` and the setters: initialised units, finite
operands, a filter in each mode, and a waveform operand of each kind. The two `PROCESS` statements with a
readable delay have witnesses of their own below. -/
theorem wit_commands :
    exIn.bq.init = true ∧ exIn.op.init = true ∧ exIn.lfo.init = true ∧ exIn.trs.init = true ∧
    exIn.trq.init = true ∧ exIn.trh.init = true ∧ exIn.rvp.init = true ∧ exIn.rvh.init = true ∧
    exIn.rvs.init = true ∧ F32.isFinite exIn.arg0 = true ∧ F32.isFinite exIn.arg1 = true ∧
    F32.isFinite exIn.arg2 = true ∧ exIn.op.mode = .lp ∧
    ({ exIn with op := { exIn.op with mode := .hp } } : State).op.mode = .hp ∧
    (ex 1#32 0#32).arg0 = 1#32 ∧ exIn.arg0 ≠ 1#32 :=
  ⟨rfl, rfl, rfl, rfl, rfl, rfl, rfl, rfl, rfl, rfl, rfl, rfl, rfl, rfl, rfl, by decide⟩

theorem exO_inRange (w : Wave) : (exO w).InRange :=
  ⟨by show F32.le F32.zero 0x3E800000#32 = true ∧ F32.lt 0x3E800000#32 F32.one = true; decide,
    by show F32.within F32.zero F32.zero F32.threeQuarters = true; decide⟩

theorem ex_rate : validRate exFs := ⟨rfl, by decide +kernel⟩

/-- Of `FrequencySetters` and `RvhSetters`, beside `wit_commands`. -/
theorem wit_validRate :
    validRate exIn.lfo.fs ∧ validRate exIn.trs.fs ∧ validRate exIn.trq.fs ∧ validRate exIn.trh.fs ∧
    validRate exIn.rvh.fs :=
  ⟨ex_rate, ex_rate, ex_rate, ex_rate, ex_rate⟩

/-- `MAX_DELAY_SAMPLES` as a value (R8). -/
theorem ex_dmax :
    F32.isSolid (F32.ofNat Config.cfg.maxDelaySamples) = true ∧
    F32.value F32.one ≤ F32.value (F32.ofNat Config.cfg.maxDelaySamples) := by
  have h := Config.cfg.maxDelay_range
  obtain ⟨h1, -, h3⟩ := F32.ofNat_spec (n := Config.cfg.maxDelaySamples) (by omega)
  refine ⟨h3, ?_⟩
  rw [h1, F32.value_one]
  have : (1 : Int) ≤ Config.cfg.maxDelaySamples := by exact_mod_cast h.1
  omega

theorem ex_bounds :
    F32.within F32.one F32.one (F32.ofNat Config.cfg.maxDelaySamples) = true :=
  F32.within_intro (by decide) (by decide)
    (F32.not_isNaN_of_finite (F32.isSolid_finite ex_dmax.1)) (le_refl _) ex_dmax.2

/-- Of `DelayInRangeKept` and `DlySetters`; the step is in `wit_Inv`. -/
theorem wit_DelayInRange (a0 a1 : Word) : DelayInRange (ex a0 a1) where
  dmax := fun _ => rfl
  dlo := fun _ => ex_bounds
  dt := fun _ => ex_bounds
  dc := fun _ => by show F32.within F32.zero F32.one F32.twoPow25 = true; decide

/-- Of `LinesCanonicalKept`; the step is in `wit_Inv`. -/
theorem wit_LinesCanonical (a0 a1 : Word) : LinesCanonical (ex a0 a1) := by
  have hd : Line.wf (dlyLen Config.cfg) ⟨[(0, F32.half)], 1⟩ = true := by
    have h : F32.half ≠ 0#32 := by decide
    simp [Line.wf, Memory.wf, Memory.wfFrom, dlyLen, h]
  have hz : ∀ n, 0 < n → Line.wf n Line.zero = true := by
    intro n hn
    simp [Line.wf, Line.zero, Memory.wf, Memory.wfFrom, hn]
  exact
    { lineL := hd, lineR := hd, shared := rfl, pre := hz _ (Nat.succ_pos _),
      ap0 := hz _ (Nat.succ_pos _), ap1 := hz _ (Nat.succ_pos _),
      ln := fun k => by
        show Line.wf _ ((Eight.all Line.zero).get k) = true
        rw [Eight.get_all]
        exact hz _ (Nat.succ_pos _)
      wg := hz _ (Nat.succ_pos _), da0 := hz _ (Nat.succ_pos _), da1 := hz _ (Nat.succ_pos _),
      da2 := hz _ (Nat.succ_pos _), da3 := hz _ (Nat.succ_pos _) }

theorem ex_decayMax : F32.within F32.zero F32.zero Config.cfg.rvsDecayMax = true := by
  obtain ⟨-, h2, h3⟩ := F32.lt_elim Config.cfg.rvsDecayMax_range.1
  exact F32.within_intro (by decide) (by decide) h2 (le_refl _)
    (by rw [F32.value_zero]; exact le_of_lt h3)

theorem ex_params : RvParams.blank.InRange :=
  ⟨by decide, by decide, by decide, by decide, by decide, by decide⟩

theorem ex_unit_zero : F32.inUnit F32.zero = true := by decide

theorem ex_unit_one : F32.inUnit F32.one = true := by decide

/-- Of `ParamsInRangeKept`; the step is in `wit_Inv`. -/
theorem wit_ParamsInRange (a0 a1 : Word) : ParamsInRange (ex a0 a1) where
  amp := ex_unit_one
  fb := ex_unit_zero
  trs := ex_unit_zero
  trq := ex_unit_zero
  trh := ex_unit_zero
  rvp := ex_params
  rvh := ex_params
  rvs := ex_params
  pd := Nat.zero_le _
  hallG := by
    show F32.le F32.zero F32.zero = true ∧ F32.lt F32.zero F32.one = true
    decide
  hallAd := fun _ => by
    show F32.lt F32.zero F32.one = true ∧ F32.le F32.one F32.one = true
    decide
  springG := ex_decayMax

/-- Of `OscsInRangeKept`; the step is in `wit_Inv`. -/
theorem wit_OscsInRange (a0 a1 : Word) : OscsInRange (ex a0 a1) where
  lfo := fun _ => ⟨ex_rate, exO_inRange _, by show Wave.sine ≠ Wave.triangle; decide⟩
  trs := fun _ => ⟨ex_rate, exO_inRange _, rfl⟩
  trq := fun _ => ⟨ex_rate, exO_inRange _, rfl⟩
  trh := fun _ => ⟨ex_rate, exO_inRange _, rfl⟩
  rvh := fun _ => ⟨ex_rate, exO_inRange _, rfl, rfl⟩

/-- Of `AdmittedStepCompletes` and `HallSilence`: every unit initialised and the whole invariant; and a step
from there. -/
theorem wit_Inv (a0 a1 : Word) : Inv (ex a0 a1) ∧ step (ex a0 a1) = .next (ex a0 a1) :=
  ⟨⟨⟨fun _ => ⟨rfl, rfl⟩, fun h => absurd h (by show ¬ false = true; decide)⟩,
    wit_LinesCanonical a0 a1, wit_ParamsInRange a0 a1, wit_DelayInRange a0 a1,
    wit_OscsInRange a0 a1⟩, rfl⟩

/-- Of `AdmittedStepCompletes` and `AdmittedRunNeverStops`: admitted events. -/
theorem wit_AdmittedStep :
    (∀ e, ({ exIn with pending := [cmdWrite 0x00000801#32] } : State).pending.head? = some e →
      eventAdmitted e = true) ∧
    (∀ e ∈ [cmdWrite 0x00000801#32, .blockReset, .access ⟨.read, .w32, 0x3C#32, 0#32⟩],
      eventAdmitted e = true) := by
  refine ⟨fun e h => ?_, by decide⟩
  have : cmdWrite 0x00000801#32 = e := Option.some.inj h
  rw [← this]
  rfl

/-- Of `HallSilence` and `SpringSilence`. -/
theorem wit_silence :
    HallSilent (ex 0#32 0#32).rvh ∧ (ex 0#32 0#32).arg0 = 0#32 ∧ (ex 0#32 0#32).arg1 = 0#32 ∧
    SpringSilent exIn.rvs ∧ F32.inUnit exIn.rvs.p.mix = true ∧
    F32.within F32.zero exIn.rvs.g ({} : Cfg).rvsDecayMax = true ∧ ({} : Cfg).tanh 0#32 = 0#32 := by
  refine ⟨⟨rfl, rfl, rfl, fun k => ?_, fun k => ?_⟩, rfl, rfl, ⟨rfl, rfl, rfl, rfl, rfl, rfl⟩, rfl, rfl,
    rfl⟩
  · show ((Eight.all Line.zero).get k).buf = []
    rw [Eight.get_all]; rfl
  · exact Eight.get_all _ _

/-- Of `DlyProcess`: dc = dt = 1, so the read delay is 1 whatever `DLY_SMOOTH` is. -/
theorem wit_DlyProcess :
    let s := exIn
    let c := Config.cfg
    let u := s.dly
    let d := c.sub u.dt u.dc s.draws
    let p := c.mul c.dlySmooth d.1 d.2
    let dc := c.add u.dc p.1 p.2
    let D := c.clamp dc.1 F32.one u.dmax dc.2
    s.dly.init = true ∧ F32.isFinite s.arg0 = true ∧ F32.isFinite s.arg1 = true ∧
    lineReadable (c.maxDelaySamples + 2) D.1 = true := by
  intro s c u d p dc D
  refine ⟨rfl, show F32.isFinite F32.half = true by decide,
    show F32.isFinite F32.half = true by decide, ?_⟩
  have hd : d = (F32.zero, 0) := by
    show (Config.cfg.sub F32.one F32.one 0) = (F32.zero, 0)
    rfl
  have hs := F32.lt_elim Config.cfg.dlySmooth_range.1
  have hs2 := F32.le_elim Config.cfg.dlySmooth_range.2
  have hf : F32.isFinite Config.cfg.dlySmooth = true := by
    refine F32.finite_of_within (lo := F32.zero) (hi := F32.one) (by decide) (by decide)
      (F32.within_intro (by decide) hs.2.1 (by decide) (le_of_lt ?_) hs2.2.2)
    exact hs.2.2
  obtain ⟨r, hr, hr1, hr2⟩ := c.mul_zero_value (x := Config.cfg.dlySmooth) (y := F32.zero) 0 hf
    (by decide) (by decide)
  have hp : p = (r, 0) := by
    show c.mul Config.cfg.dlySmooth d.1 d.2 = _
    rw [hd]; exact hr
  have hdc : dc = (F32.one, 0) := by
    show c.add F32.one p.1 p.2 = _
    rw [hp]
    exact c.add_zero_value 0 (by decide) (by decide) hr1 hr2
  have hD : D = (F32.one, 0) := by
    show c.clamp dc.1 F32.one (F32.ofNat Config.cfg.maxDelaySamples) dc.2 = _
    rw [hdc, clamp_run c (by decide) (by decide) ex_dmax.1 (by decide) ex_dmax.2]
    have : F32.lt (F32.ofNat Config.cfg.maxDelaySamples) F32.one = false := by
      rw [Bool.eq_false_iff]
      intro h
      have := (F32.lt_elim h).2.2
      have := ex_dmax.2
      omega
    show (F32.clamped F32.one F32.one (F32.ofNat Config.cfg.maxDelaySamples), 0) = _
    unfold F32.clamped
    rw [if_neg (by decide), this]
    rfl
  rw [hD]
  have h := Config.cfg.maxDelay_range
  have h1 : F32.one = F32.ofNat 1 := by decide +kernel
  show lineReadable (Config.cfg.maxDelaySamples + 2) F32.one = true
  rw [h1]
  exact lineReadable_ofNat (le_refl _) (by norm_num) (by omega)

/-- At phase 0.25 the triangle is 0, and a zero increment keeps the oscillator. -/
theorem ex_triangle (c : Cfg) (n : Nat) :
    oscStep c (exO .triangle) n = ((F32.zero, exO .triangle), n) := by
  have h1 : c.sub 0x3E800000#32 F32.half n = (0xBE800000#32, n) :=
    c.finish_solid (op := F32.sub) (by decide) (by decide) (by decide) (by decide +kernel)
  have h2 : c.mul F32.four (F32.abs 0xBE800000#32) n = (F32.one, n) :=
    c.finish_solid (op := F32.mul) (by decide) (by decide) (by decide) (by decide +kernel)
  have h3 : c.sub F32.one F32.one n = (F32.zero, n) :=
    c.finish_solid (op := F32.sub) (by decide) (by decide) (by decide) (by decide +kernel)
  have h4 : c.mul F32.one F32.zero n = (F32.zero, n) :=
    c.finish_solid (op := F32.mul) (by decide) (by decide) (by decide) (by decide +kernel)
  have h5 : c.add 0x3E800000#32 F32.zero n = (0x3E800000#32, n) :=
    c.finish_solid (op := F32.add) (by decide) (by decide) (by decide) (by decide +kernel)
  have hle : c.le F32.one 0x3E800000#32 = false := by
    unfold Cfg.le; rw [c.flush_solid (by decide), c.flush_solid (by decide)]; decide
  have hle2 : c.le F32.half 0x3E800000#32 = false := by
    unfold Cfg.le; rw [c.flush_solid (by decide), c.flush_solid (by decide)]; decide
  have ha := advance_run_stay (c := c) (o := exO .triangle) (n := n) h5 hle
  rw [hle2, Bool.and_false] at ha
  have hs : shape c .triangle 0x3E800000#32 n = (F32.zero, n) := shape_run_triangle h1 h2 h3
  rw [oscStep_run (c := c) (o := exO .triangle) (s := F32.zero) (n1 := n) hs (out := F32.zero)
    (n2 := n) h4 ha]
  rfl

/-- Of `RvhProcess`: at phase 0.25 the triangle is 0, so every delay is its line's nominal length. -/
theorem wit_RvhProcess :
    let s := exIn
    let c := Config.cfg
    let u := s.rvh
    let x := monoInput c s.f0 s.f1 s.draws
    let p := if u.pd = 0 then x.1 else u.pre.hist (c.rvhPredelayMax + 1) u.pd
    let a := allpass c (c.rvhApLen 0) u.ap0 (c.rvhApCoef 0) p x.2
    let v := allpass c (c.rvhApLen 1) u.ap1 (c.rvhApCoef 1) a.1.1 a.2
    let tri := oscStep c u.o v.2
    let ds := eightDp (hallDelay c u.p.dpos tri.1.1) tri.2
    s.rvh.init = true ∧ F32.isFinite s.arg0 = true ∧ F32.isFinite s.arg1 = true ∧
    u.pd ≤ c.rvhPredelayMax ∧ ∀ k, lineReadable (hallLen c k) (ds.1.get k) = true := by
  intro s c u x p a v tri ds
  refine ⟨rfl, show F32.isFinite F32.half = true by decide,
    show F32.isFinite F32.half = true by decide, Nat.zero_le _, fun k => ?_⟩
  obtain ⟨n, htri⟩ : ∃ n, tri = ((F32.zero, exO .triangle), n) := ⟨v.2, ex_triangle c v.2⟩
  have hk : ∀ k, hallDelay c u.p.dpos F32.zero k n = (F32.ofNat (c.rvhLen k), n) := by
    intro k
    unfold hallDelay
    split
    · have hd := F32.le_elim (Config.cfg.rvhDepth_range u.p.dpos).1
      have hd2 := F32.le_elim (Config.cfg.rvhDepth_range u.p.dpos).2
      obtain ⟨hv, hf, hs⟩ := F32.ofNat_spec (n := Config.cfg.rvhLen k)
        (by have := Config.cfg.rvhLen_range k; omega)
      obtain ⟨-, hmf, -⟩ := F32.ofNat_spec (n := Config.cfg.rvhModMax)
        (by have := Config.cfg.rvhLen_range k; omega)
      obtain ⟨r, hr, hr1, hr2⟩ := c.mul_zero_value (x := c.rvhDepthTable u.p.dpos) (y := F32.zero) n
        (F32.finite_of_within (lo := F32.zero) (by decide) hmf
          (F32.within_intro (by decide) hd.2.1 hd2.2.1 hd.2.2 hd2.2.2)) (by decide) (by decide)
      rw [Dp.run_bind_of hr]
      refine c.add_zero_value n hs ?_ hr1 hr2
      show 0 < F32.value (F32.ofNat (Config.cfg.rvhLen k))
      rw [hv]
      have : (1 : Int) ≤ Config.cfg.rvhLen k := by
        have := Config.cfg.rvhLen_range k
        exact_mod_cast (by omega : 1 ≤ Config.cfg.rvhLen k)
      omega
    · rfl
  have hds : ds = (Eight.make fun k => F32.ofNat (c.rvhLen k), n) := by
    show eightDp (hallDelay c u.p.dpos tri.1.1) tri.2 = _
    rw [htri]
    exact eightDp_gives fun k => by rw [Eight.get_make]; exact hk k
  rw [hds]
  show lineReadable _ ((Eight.make fun k => F32.ofNat (c.rvhLen k)).get k) = true
  rw [Eight.get_make]
  have := Config.cfg.rvhLen_range k
  exact lineReadable_ofNat (by show 1 ≤ Config.cfg.rvhLen k; omega)
    (by show Config.cfg.rvhLen k < 2 ^ 24; omega)
    (by show _ ≤ Config.cfg.rvhLen k + Config.cfg.rvhModMax + 2
        show Config.cfg.rvhLen k + 2 ≤ _
        omega)

/-- Of `IntegerDelay`, at k = 1, the lower end of its range. -/
theorem wit_IntegerDelay :
    exIn.dly.init = true ∧ F32.isFinite exIn.arg0 = true ∧ F32.isFinite exIn.arg1 = true ∧
    F32.isZero exIn.f0 = false ∧ F32.isZero exIn.f1 = false ∧ 1 ≤ 1 ∧
    1 ≤ Config.cfg.maxDelaySamples ∧ exIn.dly.dmax = F32.ofNat Config.cfg.maxDelaySamples ∧
    exIn.dly.dt = F32.ofNat 1 ∧ exIn.dly.dc = F32.ofNat 1 ∧ exIn.dly.fb = F32.zero ∧
    (∀ l, (l = exIn.dly.lineL ∨ l = exIn.dly.lineR) →
      F32.isZero (Config.cfg.flush (l.hist (dlyLen Config.cfg) 1)) = false ∧
      F32.mag (l.hist (dlyLen Config.cfg) 1) < 0x7E800000 ∧
      F32.mag (l.hist (dlyLen Config.cfg) (1 + 1)) < 0x7E800000) := by
  refine ⟨rfl, show F32.isFinite F32.half = true by decide,
    show F32.isFinite F32.half = true by decide, ?_, ?_, le_refl _, Config.cfg.maxDelay_range.1, rfl,
    ?_, ?_, rfl, fun l hl => ?_⟩
  · show F32.isZero (Config.cfg.flush F32.half) = false; decide +kernel
  · show F32.isZero (Config.cfg.flush F32.half) = false; decide +kernel
  · show F32.one = F32.ofNat 1; decide +kernel
  · show F32.one = F32.ofNat 1; decide +kernel
  · have hl' : l = ⟨[(0, F32.half)], 1⟩ := by rcases hl with h | h <;> exact h
    subst hl'
    have h1 : Line.hist (dlyLen Config.cfg) ⟨[(0, F32.half)], 1⟩ 1 = F32.half := by
      unfold Line.hist
      have : (1 + dlyLen Config.cfg - 1) % dlyLen Config.cfg = 0 := by simp
      simp only [this]
      rfl
    have h2 : Line.hist (dlyLen Config.cfg) ⟨[(0, F32.half)], 1⟩ (1 + 1) = 0#32 := by
      unfold Line.hist
      have : (1 + dlyLen Config.cfg - (1 + 1)) % dlyLen Config.cfg = Config.cfg.maxDelaySamples + 1 := by
        unfold dlyLen
        rw [Nat.mod_eq_of_lt] <;> omega
      simp only [this]
      rfl
    rw [h1, h2]
    exact ⟨by decide +kernel, by decide, by decide⟩

/-- Of `HistoryOfWrites`: both ends of a line of length 8. -/
theorem wit_HistoryOfWrites :
    (1 ≤ 1 ∧ 1 ≤ 8 - 1) ∧ (1 ≤ 7 ∧ 7 ≤ 8 - 1) ∧ (⟨[(1, F32.half)], 2⟩ : Line).w < 8 := by decide

/-- Of `LineStages`: the integer read at i = 1 of a line of length 3. -/
theorem wit_LineStages :
    let l : Line := ⟨[(1, F32.half)], 2⟩
    (1 ≤ 1 ∧ 1 + 2 ≤ 3 ∧ 1 < 2 ^ 24) ∧
    (exCfg.sub (l.hist 3 (1 + 1)) (l.hist 3 1)).Gives 0 0xBF000000#32 ∧
    F32.isFinite 0xBF000000#32 = true ∧ F32.isFinite (l.hist 3 1) = true ∧
    F32.isZero (exCfg.flush (l.hist 3 1)) = false :=
  ⟨by decide, rfl, by decide, by decide, by decide⟩

/-- Of `MixEnds`. -/
theorem wit_MixEnds : F32.isFinite F32.one = true ∧ F32.isFinite 0x80000000#32 = true := by decide

/-- Of `TremoloDepthZero`, the sine: the `SIN` of the default configuration is finite on every finite
operand. -/
theorem wit_TremoloDepthZero :
    F32.isFinite F32.half = true ∧ exIn.trs.depth = F32.zero ∧
    ({ exIn.trs with o := { exIn.trs.o with amp := F32.zero } } : TrmUnit).o.amp = F32.zero ∧
    exIn.trs.o.wave = .sine ∧ ({ exO .sine with amp := F32.zero } : Osc).InRange ∧
    ∀ φ, F32.isFinite φ = true → F32.isFinite (({} : Cfg).sin φ) = true :=
  ⟨by decide, rfl, rfl, rfl, ⟨(exO_inRange .sine).phase, (exO_inRange .sine).inc⟩, fun _ h => h⟩

theorem gives_of_run0 {α : Type} {p : Dp α} {a : α} (h : run0 p = (a, 0)) : p.Gives 0 a := h

/-- Of `TremoloDepthZero`, the rounded square: at phase 0.5 the default configuration's shape is finite. -/
theorem wit_TremoloDepthZero_rsquare :
    ({ exO .rsquare with amp := F32.zero, phase := F32.half } : Osc).wave = .rsquare ∧
    ({ exO .rsquare with amp := F32.zero, phase := F32.half } : Osc).InRange ∧
    (shape {} .rsquare F32.half).Gives 0 0x40490FDB#32 ∧ F32.isFinite 0x40490FDB#32 = true :=
  ⟨rfl, ⟨by decide +kernel, (exO_inRange .rsquare).inc⟩,
    gives_of_run0 (by decide +kernel), by decide⟩

/-- Of `ZeroGainIdentity`, both designs. -/
theorem wit_ZeroGainIdentity :
    let c : Cfg := { pow10 := fun _ => F32.one }
    c.pow10 F32.zero = F32.one ∧
    (bqPre c F32.one F32.half F32.zero F32.twoPi).Gives 0
      (F32.one, F32.one, F32.one, F32.one) ∧
    F32.isFinite F32.one = true ∧
    ((c.add F32.one F32.one).Gives 0 F32.two ∧ F32.isFinite F32.two = true ∧
      F32.isZero F32.two = false) ∧
    (c.mul F32.two F32.one).Gives 0 F32.two ∧ (c.add F32.two F32.two).Gives 0 F32.four ∧
    F32.isFinite F32.four = true ∧ F32.isZero F32.four = false ∧
    F32.isZero (c.flush F32.one) = false :=
  ⟨rfl, rfl, by decide, ⟨rfl, by decide, by decide⟩, rfl, rfl, by decide, by decide,
    by decide +kernel⟩

/-- Of `HadamardMatrix`, at the ends of its range. -/
theorem wit_HadamardMatrix :
    ∀ j : Fin 8, (if j = 0 then (2 ^ 20 : Int) else -(2 ^ 20)).natAbs ≤ 2 ^ 20 := by decide

/-- Of `HallDelayRange`. -/
theorem wit_HallDelayRange :
    exIn.rvh.o.InRange ∧ exIn.rvh.o.wave = .triangle ∧ exIn.rvh.o.amp = F32.one :=
  ⟨exO_inRange _, rfl, rfl⟩

/-- Of `LowPassUnityExact` and `NoStepSetsBothFlags`: operands at which binary32 leaves the corner cases of
R141 and R184 (log entry 10). -/
theorem wit_unity_flags :
    F32.isFinite 0x7F000000#32 = true ∧ F32.isFinite F32.one = true ∧
    F32.le F32.zero 0x3EFFFFFF#32 = true ∧ F32.lt 0x3EFFFFFF#32 F32.one = true ∧
    F32.within F32.zero F32.half F32.half = true := by decide

end Sys2Proof.Tests
end

section
/-! The delay line as the history of its writes (20_memory.md R90, R92, R93): how one push shifts every
distance by one, and from it what a line zeroed and then written holds. -/

namespace Sys2Proof.Machine

/-- R90's `(w − k) mod n` on integers is the natural-number index `Line.hist` reads. -/
theorem Line.intIndex_eq {w n k : Nat} (hk : k ≤ n) :
    (((w : Int) - k) % n).toNat = (w + n - k) % n := by
  have hshift : ((w : Int) - k) % n = ((w + n - k : Nat) : Int) % n := by
    rw [← Int.add_emod_right]
    congr 1
    omega
  rw [hshift]
  exact Int.toNat_natCast _

/-- Stepping the write index (R92) and looking one further back land on the same sample, also where the
index wraps. -/
theorem Line.index_step {w n k : Nat} (hw : w < n) (hk : k < n) :
    ((w + 1) % n + n - (k + 1)) % n = (w + n - k) % n := by
  rcases Nat.lt_or_ge (w + 1) n with hlt | hge
  · rw [Nat.mod_eq_of_lt hlt]
    congr 1
    omega
  · have hn : w + 1 = n := by omega
    have hwrap : w + n - k = (0 + n - (k + 1)) + n := by omega
    rw [hn, Nat.mod_self, hwrap, Nat.add_mod_right]

/-- Within the line's length, a read at distance `k ≥ 1` does not reach the slot about to be written. -/
theorem Line.index_ne {w n k : Nat} (hw : w < n) (h1 : 1 ≤ k) (hk : k < n) : (w + n - k) % n ≠ w := by
  rcases Nat.lt_or_ge w k with hlt | hge
  · rw [Nat.mod_eq_of_lt (by omega)]
    omega
  · have hback : w + n - k = (w - k) + n := by omega
    rw [hback, Nat.add_mod_right, Nat.mod_eq_of_lt (by omega)]
    omega

/-- The sample just written is the one at distance 1. -/
theorem Line.hist_push_one {n : Nat} {l : Line} (h : l.wf n = true) (v : F32) :
    (l.push n v).hist n 1 = v := by
  obtain ⟨hw, hbuf⟩ := (Line.wf_iff n l).1 h
  have hidx : ((l.w + 1) % n + n - 1) % n = l.w := by
    have hstep := Line.index_step (k := 0) hw (by omega)
    rwa [Nat.sub_zero, Nat.add_mod_right, Nat.mod_eq_of_lt hw] at hstep
  rw [Line.hist, Line.push_w, Line.push_buf, hidx, Memory.read_write hbuf, if_pos rfl]

/-- A push moves every earlier sample one further back. -/
theorem Line.hist_push_succ {n k : Nat} {l : Line} (h : l.wf n = true) (v : F32) (h1 : 1 ≤ k)
    (hk : k < n) : (l.push n v).hist n (k + 1) = l.hist n k := by
  obtain ⟨hw, hbuf⟩ := (Line.wf_iff n l).1 h
  rw [Line.hist, Line.push_w, Line.push_buf, Line.index_step hw hk, Memory.read_write hbuf,
    if_neg (Line.index_ne hw h1 hk).symm, Line.hist]

/-- A list of writes keeps a delay line well formed. -/
theorem Line.foldl_push_wf {n : Nat} {l : Line} (h : l.wf n = true) (vs : List F32) :
    (vs.foldl (fun l v => l.push n v) l).wf n = true := by
  induction vs generalizing l with
  | nil => exact h
  | cons v vs ih => exact ih (Line.push_wf h v)

/-- A zeroed and then written line reads back its writes, the latest first, and below them the +0 that
zeroing left. The induction takes the last write off the list, and the distance falls with it. -/
theorem Line.hist_foldl_push_zero {n : Nat} (vs : List F32) (k : Nat) (hk : k + 1 < n) :
    (vs.foldl (fun l v => l.push n v) Line.zero).hist n (k + 1) = vs.reverse.getD k 0#32 := by
  induction vs using List.reverseRecOn generalizing k with
  | nil => exact Line.hist_zero n (k + 1)
  | append_singleton vs v ih =>
    have hwf := Line.foldl_push_wf (Line.zero_wf (n := n) (by omega)) vs
    rw [List.foldl_concat, List.reverse_concat]
    cases k with
    | zero => exact Line.hist_push_one hwf v
    | succ k =>
      rw [Line.hist_push_succ hwf v (by omega) (by omega), List.getD_cons_succ]
      exact ih k (by omega)

/-- Settles O45: the read's index is R90's, and the history is an induction over the writes from the last
one back. -/
theorem historyOfWrites : Obligations.HistoryOfWrites := by
  unfold Obligations.HistoryOfWrites
  refine ⟨fun n l k _ hk _ => ?_, fun n vs k h1 hk => ?_⟩
  · rw [Line.hist, Line.intIndex_eq (by omega)]
  · obtain ⟨j, rfl⟩ : ∃ j, k = j + 1 := ⟨k - 1, by omega⟩
    exact Line.hist_foldl_push_zero vs j (by omega)

end Sys2Proof.Machine
end

section
/-! The decoder's verdict on a command word (30_encoding.md R110 to R115): the three fields as bits of the
word, the code tables of R112 to R114 read in both directions, and from them each check of R115. -/

namespace Sys2Proof

/-! The fields of R110. -/

@[simp] theorem rsvField_append (r : BitVec 20) (u : BitVec 4) (o : BitVec 8) :
    rsvField (r ++ u ++ o) = r := by
  rw [rsvField, BitVec.extractLsb'_append_eq_of_le (by decide)]
  exact BitVec.extractLsb'_append_eq_left

@[simp] theorem unitField_append (r : BitVec 20) (u : BitVec 4) (o : BitVec 8) :
    unitField (r ++ u ++ o) = u := by
  rw [unitField, BitVec.extractLsb'_append_eq_of_le (by decide)]
  exact BitVec.extractLsb'_append_eq_right

@[simp] theorem opField_append (r : BitVec 20) (u : BitVec 4) (o : BitVec 8) :
    opField (r ++ u ++ o) = o :=
  BitVec.extractLsb'_append_eq_right

/-- A command word is its three fields side by side. -/
theorem fields_append (w : Word) : rsvField w ++ unitField w ++ opField w = w := by
  have hhigh : rsvField w ++ unitField w = w.extractLsb' 8 24 :=
    BitVec.extractLsb'_append_extractLsb'_eq_extractLsb' rfl
  have hall : w.extractLsb' 8 24 ++ opField w = w.extractLsb' 0 32 :=
    BitVec.extractLsb'_append_extractLsb'_eq_extractLsb' rfl
  rw [hhigh, hall, BitVec.extractLsb'_eq_self]

/-- A word is a command's exactly when `RSV` is zero and the other two fields hold the command's codes. -/
theorem encode_eq_iff (i : Instr) (w : Word) :
    encode i = w ↔ rsvField w = 0#20 ∧ unitField w = i.unit.code ∧ opField w = i.op := by
  constructor
  · rintro rfl
    simp [encode]
  · rintro ⟨hrsv, hunit, hop⟩
    rw [encode, ← hrsv, ← hunit, ← hop, fields_append]

/-- R115's first check on the word as a number. -/
theorem rsvField_eq_zero_iff (w : Word) : rsvField w = 0#20 ↔ w.toNat / 2 ^ 12 = 0 := by
  rw [← BitVec.toNat_inj, rsvField, BitVec.extractLsb'_toNat, Nat.shiftRight_eq_div_pow]
  change w.toNat / 2 ^ 12 % 2 ^ 20 = 0 ↔ _
  omega

/-- With `RSV` zero, `UNIT` is all that stands above `OP`. -/
theorem unitField_toNat {w : Word} (h : w.toNat / 2 ^ 12 = 0) :
    (unitField w).toNat = w.toNat / 2 ^ 8 := by
  rw [unitField, BitVec.extractLsb'_toNat, Nat.shiftRight_eq_div_pow]
  omega

/-! The tables of R112 to R114, from the codes and from the names. -/

/-- The codes 0xA to 0xF that R112 reserves. -/
theorem unitOfCode_of_ge {n : Nat} (h : 0xA ≤ n) : unitOfCode n = none := by
  obtain ⟨k, rfl⟩ := Nat.exists_eq_add_of_le' h
  rfl

/-- Below 0xA every code is a unit's (R112). -/
theorem unitOfCode_of_lt {n : Nat} (h : n < 0xA) : ∃ u, unitOfCode n = some u := by
  interval_cases n <;> exact ⟨_, rfl⟩

@[simp] theorem unitOfCode_code (u : UnitId) : unitOfCode u.code.toNat = some u := by
  cases u <;> rfl

/-- R112 gives no unit two codes. -/
theorem code_of_unitOfCode {n : Nat} {u : UnitId} (h : unitOfCode n = some u) : u.code.toNat = n := by
  unfold unitOfCode at h
  split at h <;> cases h <;> rfl

@[simp] theorem commandOf_unit_op (i : Instr) : commandOf i.unit i.op.toNat = some i := by
  cases i <;> rfl

/-- A command found under a unit and an `OP` code has that unit and that code: R113 and R114 list each
command once. -/
theorem unit_op_of_commandOf {u : UnitId} {n : Nat} {i : Instr} (h : commandOf u n = some i) :
    i.unit = u ∧ i.op.toNat = n := by
  cases u <;> (unfold commandOf at h; dsimp only at h; split at h <;> cases h <;> exact ⟨rfl, rfl⟩)

/-! The checks of R115, in its order. -/

theorem decode_of_rsv_ne_zero {w : Word} (h : rsvField w ≠ 0#20) : decode w = .error .reservedBits :=
  if_pos h

theorem decode_of_no_unit {w : Word} (hrsv : rsvField w = 0#20)
    (hunit : unitOfCode (unitField w).toNat = none) : decode w = .error .badUnit := by
  rw [decode, if_neg (not_not_intro hrsv), hunit]

theorem decode_of_no_command {w : Word} {u : UnitId} (hrsv : rsvField w = 0#20)
    (hunit : unitOfCode (unitField w).toNat = some u)
    (hop : commandOf u (opField w).toNat = none) : decode w = .error .badOp := by
  simp only [decode, hrsv, ne_eq, not_true_eq_false, if_false, hunit, hop]

/-- The decoder reads a command's word back as the command. -/
theorem decode_encode (i : Instr) : decode (encode i) = .ok i := by
  obtain ⟨hrsv, hunit, hop⟩ := (encode_eq_iff i (encode i)).1 rfl
  simp [decode, hrsv, hunit, hop]

/-- A word whose fields lead to a command is that command's word. -/
theorem encode_of_commandOf {w : Word} {u : UnitId} {i : Instr} (hrsv : rsvField w = 0#20)
    (hunit : unitOfCode (unitField w).toNat = some u)
    (hop : commandOf u (opField w).toNat = some i) : encode i = w := by
  obtain ⟨rfl, hopc⟩ := unit_op_of_commandOf hop
  have hcode := code_of_unitOfCode hunit
  exact (encode_eq_iff i w).2
    ⟨hrsv, BitVec.eq_of_toNat_eq hcode.symm, BitVec.eq_of_toNat_eq hopc.symm⟩

/-- Settles O2: the clauses are R115's checks in turn. In the third, a command found by the tables would
make the word its encoding. -/
theorem decodeVerdicts : Obligations.DecodeVerdicts := by
  unfold Obligations.DecodeVerdicts
  intro w
  refine ⟨fun hhigh => ?reserved, fun hhigh hge => ?unit, fun hhigh hlt hnone => ?op, ?command⟩
  case reserved => exact decode_of_rsv_ne_zero fun hrsv => hhigh ((rsvField_eq_zero_iff w).1 hrsv)
  case unit =>
    rw [← unitField_toNat hhigh] at hge
    exact decode_of_no_unit ((rsvField_eq_zero_iff w).2 hhigh) (unitOfCode_of_ge hge)
  case op =>
    have hrsv := (rsvField_eq_zero_iff w).2 hhigh
    rw [← unitField_toNat hhigh] at hlt
    obtain ⟨u, hunit⟩ := unitOfCode_of_lt hlt
    cases hop : commandOf u (opField w).toNat with
    | none => exact decode_of_no_command hrsv hunit hop
    | some i => exact absurd (encode_of_commandOf hrsv hunit hop) (hnone i)
  case command =>
    rintro i rfl
    exact decode_encode i

end Sys2Proof
end

section
/-! The error record along a step (60_exceptions.md R400 to R409): what each shared operation, each command
and each host event can do to `ERR`, the cause and the detail, from the operations up to `step`. -/

namespace Sys2Proof.Machine

/-- What the block may do to the error record: leave it, or record a cause of R401 where none is held. -/
def ErrorStep (s t : State) : Prop :=
  sameErrors s t ∨ (s.err = false ∧ t.err = true ∧ ∃ c, t.cause = Cause.code c)

/-- An outcome that, where it has a next state, reaches it by an `ErrorStep`. -/
def ErrorStepTo (s : State) (r : Host.Outcome State Fault Refusal) : Prop :=
  ∀ t, r = .next t → ErrorStep s t

theorem ErrorStep.of_err {s t : State} (h : ErrorStep s t) (herr : s.err = true) : sameErrors s t := by
  rcases h with hsame | ⟨hclear, -⟩
  · exact hsame
  · simp [herr] at hclear

theorem errorStep_raise (s : State) (c : Cause) (w : Word) : ErrorStep s (s.raise c w) := by
  cases herr : s.err with
  | false =>
    rw [State.raise_of_not_err herr]
    exact .inr ⟨herr, rfl, c, rfl⟩
  | true =>
    rw [State.raise_of_err herr]
    exact .inl ⟨rfl, rfl, rfl⟩

/-! The outcomes that are no command's. -/

theorem errorStepTo_next {s t : State} (h : ErrorStep s t) : ErrorStepTo s (.next t) := by
  rintro _ ⟨⟩
  exact h

theorem errorStepTo_fault (s : State) (f : Fault) : ErrorStepTo s (.fault f) := by
  rintro _ ⟨⟩

theorem errorStepTo_refused (s : State) (r : Refusal) : ErrorStepTo s (.refused r) := by
  rintro _ ⟨⟩

theorem errorStepTo_raise (s : State) (c : Cause) (w : Word) : ErrorStepTo s (.next (s.raise c w)) :=
  errorStepTo_next (errorStep_raise s c w)

/-! The operations every command shares. -/

theorem errorStepTo_checked {i : Instr} {s : State} {r : Host.Outcome State Fault Refusal}
    (h : ErrorStepTo s r) : ErrorStepTo s (checked i s r) := by
  rcases checked_cases i s r with ⟨-, -, heq⟩ | ⟨-, -, heq⟩ | ⟨-, -, heq⟩ <;> rw [heq]
  · exact errorStepTo_raise s _ _
  · exact errorStepTo_raise s _ _
  · exact h

/-- A rule on the datapath that leaves the error record of `s`, whatever it draws. -/
def KeepsErrors (s : State) (p : Dp State) : Prop := ∀ k, sameErrors s (p k).1

theorem KeepsErrors.pure {s t : State} (h : sameErrors s t) : KeepsErrors s (pure t) := fun _ => h

/-- What a rule computes first reaches the error record through its last stage alone. -/
theorem KeepsErrors.bind {α : Type} {s : State} {q : Dp α} {f : α → Dp State}
    (h : ∀ a, KeepsErrors s (f a)) : KeepsErrors s (q >>= f) := fun k => h (q k).1 (q k).2

theorem errorStepTo_perform {s : State} {p : Dp State} (h : KeepsErrors s p) :
    ErrorStepTo s (perform s p) :=
  errorStepTo_next (.inl (h s.draws))

/-- A rule that reads delay lines changes the state by its last stage `f` alone. -/
theorem errorStepTo_performLine {α : Type} {s : State} {q : Dp (Option α)} {f : α → State}
    (h : ∀ a, sameErrors s (f a)) :
    ErrorStepTo s (performLine s do let r ← q; pure (r.map f)) := by
  rcases performLine_cases s (do let r ← q; pure (r.map f)) with ⟨t, hsome, heq⟩ | ⟨-, heq⟩ <;> rw [heq]
  · obtain ⟨a, -, rfl⟩ := Option.map_eq_some_iff.1 hsome
    exact errorStepTo_next (.inl (h a))
  · exact errorStepTo_refused s _

theorem errorStepTo_initialise {i : Instr} {s : State} {p : F32 → Dp State}
    (h : ∀ fs, KeepsErrors s (p fs)) : ErrorStepTo s (initialise i s p) := by
  rcases initialise_cases i s p with ⟨-, heq⟩ | ⟨-, heq⟩ <;> rw [heq]
  · exact errorStepTo_perform (h s.f0)
  · exact errorStepTo_raise s _ _

/-- A command touches the error record by its checks alone (R403, R406 to R408): its rule writes its unit,
the result registers and the count of draws. The cases are the shapes a rule has. -/
theorem errorStepTo_exec (i : Instr) (s : State) : ErrorStepTo s (exec i s) := by
  unfold exec
  cases i with
  | bqInit | opInit | lfoInit =>
    refine errorStepTo_checked (errorStepTo_initialise fun fs => ?_)
    exact .pure ⟨rfl, rfl, rfl⟩
  | dlyInit | trsInit | trqInit | trhInit | rvpInit | rvhInit | rvsInit =>
    refine errorStepTo_checked (errorStepTo_initialise fun fs => ?_)
    exact .bind fun u => .pure ⟨rfl, rfl, rfl⟩
  | dlyProcess | rvhProcess =>
    exact errorStepTo_checked (errorStepTo_performLine fun r => ⟨rfl, rfl, rfl⟩)
  | bqClear | opClear | lfoClear | lfoSetWaveform | dlyClear | trsGetLastLfo | trqGetLastLfo
  | trhGetLastLfo | rvpClear | rvpSetTankModSpeed | rvpSetTankModDepth | rvpSetTankModShape | rvhClear
  | rvhSetTankModDepth | rvhSetTankModShape | rvsClear | rvsSetTankModSpeed | rvsSetTankModDepth
  | rvsSetTankModShape =>
    refine errorStepTo_checked (errorStepTo_perform ?_)
    exact .pure ⟨rfl, rfl, rfl⟩
  | rvhSetPredelay | rvsSetDecay =>
    refine errorStepTo_checked (errorStepTo_perform ?_)
    exact .bind fun v => .bind fun d => .pure ⟨rfl, rfl, rfl⟩
  | _ =>
    refine errorStepTo_checked (errorStepTo_perform ?_)
    exact .bind fun v => .pure ⟨rfl, rfl, rfl⟩

/-! What reaches the block from outside. -/

theorem errorStepTo_execute (w : Word) (s : State) : ErrorStepTo s (execute w s) := by
  rcases execute_cases w s with ⟨c, -, heq⟩ | ⟨i, -, heq⟩ <;> rw [heq]
  · exact errorStepTo_raise s c w
  · exact errorStepTo_exec i s

theorem errorStepTo_memWrite (o : Nat) (v : Word) (s : State) :
    ErrorStepTo s (memWrite execute o v s) := by
  rcases memWrite_cases execute o v s with
    ⟨-, heq⟩ | ⟨-, heq⟩ | ⟨-, heq⟩ | ⟨-, heq⟩ | ⟨-, heq⟩ <;> rw [heq]
  · exact errorStepTo_execute v s
  · exact errorStepTo_next (.inl ⟨rfl, rfl, rfl⟩)
  · exact errorStepTo_next (.inl ⟨rfl, rfl, rfl⟩)
  · exact errorStepTo_next (.inl ⟨rfl, rfl, rfl⟩)
  · exact errorStepTo_raise s _ _

theorem errorStepTo_hostAccess (a : Access) (s : State) : ErrorStepTo s (hostAccess execute a s) := by
  rcases hostAccess_cases execute a s with
    ⟨-, heq⟩ | ⟨-, -, heq⟩ | ⟨-, -, -, heq⟩ | ⟨-, -, heq⟩ | ⟨-, -, heq⟩ <;> rw [heq]
  · exact errorStepTo_fault s _
  · exact errorStepTo_refused s _
  · exact errorStepTo_refused s _
  · exact errorStepTo_next (.inl ⟨rfl, rfl, rfl⟩)
  · exact errorStepTo_memWrite _ _ s

theorem errorStepTo_hostEvent {e : HostEvent} (he : e ≠ .blockReset) (s : State) :
    ErrorStepTo s (hostEvent execute e s) := by
  cases e with
  | access a => exact errorStepTo_hostAccess a s
  | concurrent a b => exact errorStepTo_refused s _
  | blockReset => exact absurd rfl he

/-- Every step but a block reset keeps the error record or makes its first entry (R402). -/
theorem errorStepTo_step {s : State} (h : s.pending.head? ≠ some .blockReset) :
    ErrorStepTo s (step s) := by
  rcases step_cases s with ⟨-, heq⟩ | ⟨e, rest, hpending, heq⟩ <;> rw [heq]
  · exact errorStepTo_next (.inl ⟨rfl, rfl, rfl⟩)
  · have he : e ≠ .blockReset := by
      rintro rfl
      simp [hpending] at h
    exact errorStepTo_hostEvent he { s with pending := rest }

/-- Settles O9: the two clauses on `raise` are its laws, and a step that may not record a second error keeps
the first. -/
theorem errorRecording : Obligations.ErrorRecording := by
  unfold Obligations.ErrorRecording
  refine ⟨fun s c w herr => State.raise_of_not_err herr c w,
    fun s c w herr => State.raise_of_err herr c w, fun s t herr hreset hstep => ?_⟩
  exact (errorStepTo_step hreset t hstep).of_err herr

/-! Undefined command words. -/

/-- A word the decoder rejects raises its verdict, the word as detail, and does nothing else (R403). -/
theorem execute_of_decode_error {w : Word} {c : Cause} (h : decode w = .error c) (s : State) :
    execute w s = .next (s.raise c w) := by
  rw [execute, h]

/-- Settles O11: each clause is the decoder's verdict on the word, raised. -/
theorem undefinedWordsRaise : Obligations.UndefinedWordsRaise := by
  unfold Obligations.UndefinedWordsRaise
  intro s w
  obtain ⟨hreserved, hunit, hop, -⟩ := decodeVerdicts w
  refine ⟨fun hhigh => ?_, fun hlow hge => ?_, fun hlow hlt hnone => ?_⟩
  · exact execute_of_decode_error (hreserved hhigh) s
  · exact execute_of_decode_error (hunit hlow hge) s
  · exact execute_of_decode_error (hop hlow hlt hnone) s

end Sys2Proof.Machine
end

section
/-! What a reset leaves (70_reset_and_hazards.md R450): the reset state's lifecycle flags and window, and that
a block reset shows the host the same ones, whatever stood there before. -/

namespace Sys2Proof.Machine

/-! The reset state. -/

@[simp] theorem unitInit_reset (u : UnitId) : unitInit u State.reset = false := by
  cases u <;> rfl

@[simp] theorem statusWord_reset : statusWord State.reset = 0#32 := by decide

@[simp] theorem errinfoWord_reset : errinfoWord State.reset = 0#32 := by decide

/-- `ID` reads a constant (R86), in every state. -/
@[simp] theorem memRead_id (s : State) : memRead 0x24 s = 0x464C4B01#32 := rfl

/-- Every other offset reads a register that reset clears, or nothing at all. -/
theorem memRead_reset_of_ne {o : Nat} (h : o ≠ 0x24) : memRead o State.reset = 0#32 := by
  unfold memRead
  split
  case h_6 => exact statusWord_reset
  case h_7 => exact errinfoWord_reset
  case h_9 => exact absurd rfl h
  all_goals rfl

/-! The block reset keeps only the pending events, the last value read and the count of draws, which neither
the flags nor the window show. -/

@[simp] theorem unitInit_blockReset (u : UnitId) (s : State) :
    unitInit u (blockReset s) = unitInit u State.reset := by
  cases u <;> rfl

@[simp] theorem statusWord_blockReset (s : State) :
    statusWord (blockReset s) = statusWord State.reset := rfl

@[simp] theorem errinfoWord_blockReset (s : State) :
    errinfoWord (blockReset s) = errinfoWord State.reset := rfl

@[simp] theorem memRead_blockReset (o : Nat) (s : State) :
    memRead o (blockReset s) = memRead o State.reset := by
  simp only [memRead, blockReset_arg0, blockReset_arg1, blockReset_arg2, blockReset_res0,
    blockReset_res1, blockReset_errcmd, statusWord_blockReset, errinfoWord_blockReset]

/-- A step on a block reset. -/
theorem step_blockReset {s : State} {rest : List HostEvent} (h : s.pending = .blockReset :: rest) :
    step s = .next (blockReset { s with pending := rest }) := by
  rcases step_cases s with ⟨hidle, -⟩ | ⟨e, rest', hpending, heq⟩
  · simp [hidle] at h
  · obtain ⟨rfl, rfl⟩ := List.cons.inj (hpending.symm.trans h)
    exact heq

/-- Settles O8: a block reset shows the window and the lifecycle flags of the reset state, so both follow from
that one state's. -/
theorem resetWindow : Obligations.ResetWindow := by
  unfold Obligations.ResetWindow
  refine ⟨?window, fun s rest hpending => step_blockReset hpending⟩
  case window =>
    rintro t (rfl | ⟨s, rfl⟩)
    · exact ⟨fun o ho => memRead_reset_of_ne ho, memRead_id _, unitInit_reset⟩
    · refine ⟨fun o ho => ?_, memRead_id _, fun u => ?_⟩
      · rw [memRead_blockReset, memRead_reset_of_ne ho]
      · rw [unitInit_blockReset, unitInit_reset]

end Sys2Proof.Machine
end

section
/-! Decoding in both directions, and what one step does with an event (30_encoding.md R110 to R115;
20_memory.md R80 to R86; 60_exceptions.md R403, R425). -/

namespace Sys2Proof.Machine

/-! Encoding. -/

/-- Settles O1: a word that is not a command's has an error verdict, and a command's word decodes to that
command. -/
theorem decodeEncodeAgree : Obligations.DecodeEncodeAgree := by
  unfold Obligations.DecodeEncodeAgree
  refine fun w i => ⟨fun hdec => ?_, fun h => h ▸ decode_encode i⟩
  unfold decode at hdec
  split at hdec
  case isTrue => cases hdec
  case isFalse hrsv =>
    split at hdec
    case h_1 => cases hdec
    case h_2 u hunit =>
      split at hdec
      case h_1 => cases hdec
      case h_2 j hop =>
        cases hdec
        exact (encode_of_commandOf (not_not.1 hrsv) hunit hop).symm

/-- Settles O3: ten of the words are encodings; the last two have no row in their unit's table. -/
theorem sampleWords : Obligations.SampleWords := by
  unfold Obligations.SampleWords
  exact ⟨decode_encode .bqInit, decode_encode .opSetHighpass, decode_encode .lfoSetWaveform,
    decode_encode .dlySetDelayTime, decode_encode .trsGetLastLfo, decode_encode .trqProcess,
    decode_encode .trhSetDepth, decode_encode .rvpSetTankModDepth, decode_encode .rvhClear,
    decode_encode .rvsSetTankModShape, decode_of_no_command (u := .trs) rfl rfl rfl,
    decode_of_no_command (u := .dly) rfl rfl rfl⟩

/-! The step. -/

/-- A 32-bit write at `BASE` is the write to `CMD`. -/
theorem busWrite_base (w : Word) : busWrite Config.cfg.base w = cmdWrite w := by
  rw [busWrite, windowOffset, BitVec.sub_self]
  rfl

/-- Settles O4: a write at `BASE` is a `CMD` write, which `execute` performs by the decoder's verdict. -/
theorem stepRunsDecoded : Obligations.StepRunsDecoded := by
  unfold Obligations.StepRunsDecoded
  refine fun s w rest => ⟨fun i hp hdec => ?_, fun c hp hdec => ?_, fun hp => ?_⟩
  · rw [step_cmdWrite (busWrite_base w ▸ hp), execute, hdec]
  · rw [step_cmdWrite (busWrite_base w ▸ hp), execute_of_decode_error hdec]
  · rw [step, hp]

/-- Settles O5: the placed event is the `CMD` write of the command's word. -/
theorem fetchWordRuns : Obligations.FetchWordRuns := by
  unfold Obligations.FetchWordRuns
  intro s i
  have hword : BitVec.ofNat 32 ((encode i).toNat % 2 ^ 32) = encode i := by
    rw [Nat.mod_eq_of_lt (encode i).isLt, BitVec.ofNat_toNat, BitVec.setWidth_eq]
  rw [step_cmdWrite (s.withFetchWord_pending 32 _), hword, execute, decode_encode]
  rfl

/-! The window. -/

theorem hostAccess_write {run : Word → State → Host.Outcome State Fault Refusal} {a : Access}
    (h : a.admitted = true) (hk : a.kind = .write) (s : State) :
    hostAccess run a s = memWrite run a.off.toNat a.data s := by
  rcases hostAccess_cases run a s with
    ⟨hin, -⟩ | ⟨-, hw, -⟩ | ⟨-, -, hal, -⟩ | ⟨-, hr, -⟩ | ⟨-, -, heq⟩
  · simp [Access.admitted, hin] at h
  · simp [Access.admitted, hw] at h
  · simp [Access.admitted, hal] at h
  · simp [hk] at hr
  · exact heq

theorem hostAccess_read {run : Word → State → Host.Outcome State Fault Refusal} {a : Access}
    (h : a.admitted = true) (hk : a.kind = .read) (s : State) :
    hostAccess run a s = .next { s with lastRead := some (memRead a.off.toNat s) } := by
  rcases hostAccess_cases run a s with
    ⟨hin, -⟩ | ⟨-, hw, -⟩ | ⟨-, -, hal, -⟩ | ⟨-, -, heq⟩ | ⟨-, hw, -⟩
  · simp [Access.admitted, hin] at h
  · simp [Access.admitted, hw] at h
  · simp [Access.admitted, hal] at h
  · exact heq
  · simp [hk] at hw

/-- R80, R82, R83: an access is admitted when it is in the window, a word wide and aligned. -/
theorem Access.admitted_iff (a : Access) :
    a.admitted = true ↔ a.off.toNat < 64 ∧ a.width = .w32 ∧ a.off.toNat % 4 = 0 := by
  simp [Access.admitted, Access.inWindow, Access.wordWide, Access.aligned, and_assoc]

/-- A write beyond the operand registers raises `BAD_REGISTER` (R409). -/
theorem memWrite_badRegister {run : Word → State → Host.Outcome State Fault Refusal} {o : Nat}
    (h : 16 ≤ o) (v : Word) (s : State) :
    memWrite run o v s = .next (s.raise .badRegister (BitVec.ofNat 32 o)) := by
  rcases memWrite_cases run o v s with ⟨ho, -⟩ | ⟨ho, -⟩ | ⟨ho, -⟩ | ⟨ho, -⟩ | ⟨-, heq⟩
  · omega
  · omega
  · omega
  · omega
  · exact heq

/-- Settles O6: the admitted writes through `memWrite`, the refusals by the first check that fails. -/
theorem windowWrites : Obligations.WindowWrites := by
  unfold Obligations.WindowWrites
  have hadm (o : Word) (v : Word) (hin : o.toNat < 64) (hal : o.toNat % 4 = 0) :
      (⟨.write, .w32, o, v⟩ : Access).admitted = true := (Access.admitted_iff _).2 ⟨hin, rfl, hal⟩
  refine fun s => ⟨fun v => hostAccess_write (hadm 4 v (by decide) (by decide)) rfl s,
    fun v => hostAccess_write (hadm 8 v (by decide) (by decide)) rfl s,
    fun v => hostAccess_write (hadm 12 v (by decide) (by decide)) rfl s,
    fun v o h1 h2 => ?badRegister, fun a hin hw => ?width, fun a hin hw hal => ?aligned,
    fun a hout => ?outside, fun a b => rfl⟩
  case badRegister =>
    have hoff : (BitVec.ofNat 32 (4 * o)).toNat = 4 * o := by
      rw [BitVec.toNat_ofNat, Nat.mod_eq_of_lt (by omega)]
    rw [hostAccess_write (hadm _ v (by omega) (by omega)) rfl]
    dsimp only
    rw [hoff]
    exact memWrite_badRegister (by omega) v s
  case width => simp [hostAccess, Access.inWindow, Access.wordWide, hin, hw]
  case aligned => simp [hostAccess, Access.inWindow, Access.wordWide, Access.aligned, hin, hw, hal]
  case outside => simp [hostAccess, Access.inWindow, hout]

/-- The offsets above `ID` are reserved and read as zero (R86). -/
theorem memRead_reserved {o : Nat} (h : 0x28 ≤ o) (s : State) : memRead o s = 0#32 := by
  unfold memRead
  split
  case h_10 => rfl
  all_goals omega

@[simp] theorem errinfoWord_toNat (s : State) : (errinfoWord s).toNat = s.cause.toNat := by
  rw [errinfoWord, BitVec.toNat_append]
  simp

/-- R43: `ERR`, fifteen reserved bits, the ten lifecycle bits, six reserved bits. -/
theorem statusWord_getLsbD (s : State) (n : Nat) :
    (statusWord s).getLsbD n =
      if n = 0 then s.err else if n < 16 then false else if n < 26 then (initDone s).getLsbD (n - 16)
      else false := by
  simp only [statusWord, BitVec.getLsbD_append, BitVec.getLsbD_zero, BitVec.getLsbD_ofBool]
  rcases Nat.lt_trichotomy n 0 with h | h | h
  · omega
  · simp [h]
  · have h1 : ¬ n < 1 := by omega
    have h15 : n - 1 < 15 ↔ n < 16 := by omega
    have h10 : n - 1 - 15 < 10 ↔ n < 26 := by omega
    simp only [h1, h15, h10, if_false, h.ne']
    simp [Nat.sub_sub]

/-- R43: bit u of `INIT_DONE` mirrors unit u. -/
theorem initDone_getLsbD (s : State) (u : UnitId) :
    (initDone s).getLsbD u.code.toNat = unitInit u s := by
  cases u <;> simp only [initDone, BitVec.getLsbD_append, BitVec.getLsbD_ofBool] <;> rfl

/-- Settles O7: a read is admitted, so it returns `memRead`, whose offsets are the clauses. -/
theorem windowReads : Obligations.WindowReads := by
  unfold Obligations.WindowReads
  refine fun s => ⟨fun a hk hadm => ⟨memRead a.off.toNat s, hostAccess_read hadm hk s, ?_⟩, ?_,
    fun u => ?_, fun n hn => ?_⟩
  · refine ⟨?_, ?_, ?_, ?_, ?_, ?_, ?_, ?_, ?_, ?_, fun h => memRead_reserved h s⟩
    case refine_7 =>
      intro h
      rw [h]
      exact errinfoWord_toNat s
    all_goals
      intro h
      rw [h]
      rfl
  · rw [statusWord_getLsbD, if_pos rfl]
  · have hcode : u.code.toNat < 10 := by cases u <;> decide
    rw [statusWord_getLsbD, if_neg (by omega), if_neg (by omega), if_pos (by omega),
      Nat.add_sub_cancel_left, initDone_getLsbD]
  · rw [statusWord_getLsbD, if_neg (by omega)]
    rcases hn with hn | hn
    · rw [if_pos (by omega)]
    · rw [if_neg (by omega), if_neg (by omega)]

end Sys2Proof.Machine
end

section
/-! What a command can do, said once (60_exceptions.md R403, R406 to R408; 70_reset_and_hazards.md R463 to
R469): its checks, the frame of its rule, and that its effect depends on its own unit alone. -/

namespace Sys2Proof.Machine

/-! The checks. -/

/-- Every command is its checks and a rule, an `INIT`'s rule being guarded by the rate (R403). -/
theorem exec_checked (i : Instr) (s : State) :
    ∃ r, exec i s = checked i s r ∧ (i.op = 0x00#8 → ∃ p, r = initialise i s p) := by
  cases i with
  | bqInit | opInit | lfoInit | dlyInit | trsInit | trqInit | trhInit | rvpInit | rvhInit | rvsInit =>
    exact ⟨_, rfl, fun _ => ⟨_, rfl⟩⟩
  | _ => exact ⟨_, rfl, fun h => absurd h (by decide)⟩

/-- An `INIT` reads one f32 operand (R114). -/
theorem operandsFinite_init {i : Instr} (h : i.op = 0x00#8) (s : State) :
    operandsFinite i s = F32.isFinite s.arg0 := by
  cases i with
  | bqInit | opInit | lfoInit | dlyInit | trsInit | trqInit | trhInit | rvpInit | rvhInit | rvsInit => rfl
  | _ => exact absurd h (by decide)

/-- Settles O12: the clauses are the branches of `checked`, and of `initialise` for the rate. -/
theorem commandChecks : Obligations.CommandChecks := by
  unfold Obligations.CommandChecks
  intro s i
  obtain ⟨r, hexec, hinit⟩ := exec_checked i s
  rw [hexec]
  refine ⟨checked_notInit r, checked_badOperand r, fun hop hfin hrate => ?_⟩
  rw [checked_pass (.inl hop) (by rwa [operandsFinite_init hop])]
  obtain ⟨p, rfl⟩ := hinit hop
  rcases initialise_cases i s p with ⟨hlt, -⟩ | ⟨-, heq⟩
  · exact absurd (hrate.symm.trans hlt) (by decide)
  · exact heq

/-! Postconditions of a computation on the datapath. -/

/-- Whatever has been drawn, the result of the computation satisfies `Q`. -/
def Yields {α : Type} (p : Dp α) (Q : α → Prop) : Prop := ∀ k, Q (p k).1

theorem Yields.pure {α : Type} {a : α} {Q : α → Prop} (h : Q a) : Yields (pure a : Dp α) Q := fun _ => h

theorem Yields.bind {α β : Type} {q : Dp α} {f : α → Dp β} {P : α → Prop} {Q : β → Prop}
    (hq : Yields q P) (hf : ∀ a, P a → Yields (f a) Q) : Yields (q >>= f) Q :=
  fun k => hf (q k).1 (hq k) (q k).2

/-- As `bind`, where nothing is needed of the first part's result. -/
theorem Yields.bind_any {α β : Type} {q : Dp α} {f : α → Dp β} {Q : β → Prop}
    (hf : ∀ a, Yields (f a) Q) : Yields (q >>= f) Q :=
  fun k => hf (q k).1 (q k).2

/-- What a command computes satisfies `Q` in every unit register; the count of draws is set last. -/
def YieldsState (p : Dp State) (Q : State → Prop) : Prop := Yields p fun t => ∀ n, Q { t with draws := n }

/-- The command runs its rule: its checks pass, and an `INIT`'s rate is above zero (R403, R407). -/
def Admits (i : Instr) (s : State) : Prop :=
  Passes i s ∧ (i.op = 0x00#8 → Config.cfg.lt F32.zero s.f0 = true)

/-- Where the outcome of command `i` has a next state, it is the recording of an error, or a state of which
the command's rule makes `Q` true. -/
def Ends (i : Instr) (s : State) (Q : State → Prop) (o : Host.Outcome State Fault Refusal) : Prop :=
  ∀ t, o = .next t → (¬ Admits i s ∧ ∃ c, t = s.raise c (encode i)) ∨ (Admits i s ∧ Q t)

theorem ends_checked {i : Instr} {s : State} {Q : State → Prop} {r : Host.Outcome State Fault Refusal}
    (h : Passes i s → Ends i s Q r) : Ends i s Q (checked i s r) := by
  intro t ht
  rcases checked_cases i s r with ⟨hop, hinit, heq⟩ | ⟨-, hfin, heq⟩ | ⟨hinit, hfin, heq⟩ <;> rw [heq] at ht
  · cases ht
    refine .inl ⟨fun hadm => ?_, _, rfl⟩
    rcases hadm.1.1 with h0 | h0
    · exact hop h0
    · simp [hinit] at h0
  · cases ht
    exact .inl ⟨fun hadm => by simp [hadm.1.2] at hfin, _, rfl⟩
  · exact h ⟨hinit, hfin⟩ t ht

theorem ends_perform {i : Instr} {s : State} {Q : State → Prop} {p : Dp State} (hop : i.op ≠ 0x00#8)
    (h : Admits i s → YieldsState p Q) : Ends i s Q (checked i s (perform s p)) := by
  refine ends_checked fun hpass t ht => ?_
  have hadm : Admits i s := ⟨hpass, fun h0 => absurd h0 hop⟩
  cases ht
  exact .inr ⟨hadm, h hadm s.draws _⟩

theorem ends_performLine {α : Type} {i : Instr} {s : State} {Q : State → Prop} {q : Dp (Option α)}
    {f : α → State} (hop : i.op ≠ 0x00#8)
    (h : Admits i s → Yields q fun r => ∀ a ∈ r, ∀ n, Q { f a with draws := n }) :
    Ends i s Q (checked i s (performLine s do let r ← q; pure (r.map f))) := by
  refine ends_checked fun hpass t ht => ?_
  have hadm : Admits i s := ⟨hpass, fun h0 => absurd h0 hop⟩
  rcases performLine_cases s (do let r ← q; pure (r.map f)) with ⟨t', hsome, heq⟩ | ⟨-, heq⟩ <;> rw [heq] at ht
  · obtain ⟨a, ha, rfl⟩ := Option.map_eq_some_iff.1 hsome
    cases ht
    exact .inr ⟨hadm, h hadm s.draws a ha _⟩
  · cases ht

theorem ends_initialise {i : Instr} {s : State} {Q : State → Prop} {p : F32 → Dp State}
    (hop : i.op = 0x00#8) (h : Admits i s → YieldsState (p s.f0) Q) : Ends i s Q (checked i s (initialise i s p)) := by
  refine ends_checked fun hpass t ht => ?_
  rcases initialise_cases i s p with ⟨hlt, heq⟩ | ⟨hlt, heq⟩ <;> rw [heq] at ht
  · cases ht
    exact .inr ⟨⟨hpass, fun _ => hlt⟩, h ⟨hpass, fun _ => hlt⟩ s.draws _⟩
  · cases ht
    exact .inl ⟨fun hadm => by simp [hadm.2 hop] at hlt, _, rfl⟩

/-! The frame of a rule. -/

/-- What the rule of command `i` leaves as it was: the host's side, the error record, every unit but its own,
and, unless it produces a result, the result registers. -/
structure Framed (i : Instr) (s t : State) : Prop where
  inputs : sameInputs s t
  errors : sameErrors s t
  units : ∀ v, v ≠ i.unit → sameUnit v s t
  results : producesResult i = false → s.res0 = t.res0 ∧ s.res1 = t.res1

theorem sameUnit_refl (u : UnitId) (s : State) : sameUnit u s s := by
  cases u <;> rfl

theorem sameUnit_raise (u : UnitId) (s : State) (c : Cause) (w : Word) : sameUnit u s (s.raise c w) := by
  cases u <;> simp [sameUnit]

theorem sameInputs_raise (s : State) (c : Cause) (w : Word) : sameInputs s (s.raise c w) := by
  simp [sameInputs]

/-- A rule writes its own unit, the results where it produces one, and the count of draws. The cases are the
shapes a rule has. -/
theorem ends_framed (i : Instr) (s : State) : Ends i s (Framed i s) (exec i s) := by
  cases i with
  | bqInit | opInit | lfoInit =>
    refine ends_initialise rfl fun _ => .pure fun n => ?_
    refine ⟨⟨rfl, rfl, rfl, rfl, rfl⟩, ⟨rfl, rfl, rfl⟩, fun v hv => ?_, fun _ => ⟨rfl, rfl⟩⟩
    cases v <;> simp [sameUnit, Instr.unit] at hv ⊢
  | dlyInit | trsInit | trqInit | trhInit | rvpInit | rvhInit | rvsInit =>
    refine ends_initialise rfl fun _ => .bind_any fun u => .pure fun n => ?_
    refine ⟨⟨rfl, rfl, rfl, rfl, rfl⟩, ⟨rfl, rfl, rfl⟩, fun v hv => ?_, fun _ => ⟨rfl, rfl⟩⟩
    cases v <;> simp [sameUnit, Instr.unit] at hv ⊢
  | dlyProcess | rvhProcess =>
    refine ends_performLine (by decide) fun _ k a _ n => ?_
    refine ⟨⟨rfl, rfl, rfl, rfl, rfl⟩, ⟨rfl, rfl, rfl⟩, fun v hv => ?_, fun h => absurd h (by decide)⟩
    cases v <;> simp [sameUnit, Instr.unit] at hv ⊢
  | bqProcess | opProcess | lfoProcess | trsProcess | trqProcess | trhProcess | rvpProcess | rvsProcess =>
    refine ends_perform (by decide) fun _ => .bind_any fun u => .pure fun n => ?_
    refine ⟨⟨rfl, rfl, rfl, rfl, rfl⟩, ⟨rfl, rfl, rfl⟩, fun v hv => ?_, fun h => absurd h (by decide)⟩
    cases v <;> simp [sameUnit, Instr.unit] at hv ⊢
  | trsGetLastLfo | trqGetLastLfo | trhGetLastLfo =>
    refine ends_perform (by decide) fun _ => .pure fun n => ?_
    refine ⟨⟨rfl, rfl, rfl, rfl, rfl⟩, ⟨rfl, rfl, rfl⟩, fun v _ => ?_, fun h => absurd h (by decide)⟩
    cases v <;> rfl
  | bqClear | opClear | lfoClear | lfoSetWaveform | dlyClear | rvpClear | rvpSetTankModSpeed
  | rvpSetTankModDepth | rvpSetTankModShape | rvhClear | rvhSetTankModDepth | rvhSetTankModShape
  | rvsClear | rvsSetTankModSpeed | rvsSetTankModDepth | rvsSetTankModShape =>
    refine ends_perform (by decide) fun _ => .pure fun n => ?_
    refine ⟨⟨rfl, rfl, rfl, rfl, rfl⟩, ⟨rfl, rfl, rfl⟩, fun v hv => ?_, fun _ => ⟨rfl, rfl⟩⟩
    cases v <;> simp [sameUnit, Instr.unit] at hv ⊢
  | rvhSetPredelay | rvsSetDecay =>
    refine ends_perform (by decide) fun _ => .bind_any fun v => .bind_any fun d => .pure fun n => ?_
    refine ⟨⟨rfl, rfl, rfl, rfl, rfl⟩, ⟨rfl, rfl, rfl⟩, fun v hv => ?_, fun _ => ⟨rfl, rfl⟩⟩
    cases v <;> simp [sameUnit, Instr.unit] at hv ⊢
  | _ =>
    refine ends_perform (by decide) fun _ => .bind_any fun v => .pure fun n => ?_
    refine ⟨⟨rfl, rfl, rfl, rfl, rfl⟩, ⟨rfl, rfl, rfl⟩, fun v hv => ?_, fun _ => ⟨rfl, rfl⟩⟩
    cases v <;> simp [sameUnit, Instr.unit] at hv ⊢

/-- Settles O14: the frame of the rule, and of the recording of an error, which an admitted command does not
make. -/
theorem commandFrame : Obligations.CommandFrame := by
  unfold Obligations.CommandFrame
  intro i s t hexec
  rcases ends_framed i s t hexec with ⟨hbad, c, rfl⟩ | ⟨-, hframe⟩
  · refine ⟨sameInputs_raise s _ _, fun _ => by simp, fun hpass hrate => ?_⟩
    exact absurd ⟨hpass, fun hop => hrate.resolve_left (not_not_intro hop)⟩ hbad
  · exact ⟨hframe.inputs, hframe.results, fun _ _ => hframe.errors⟩

/-- Settles O15, by the frame of the rule. -/
theorem unitsIndependent : Obligations.UnitsIndependent := by
  unfold Obligations.UnitsIndependent
  intro i s t u hexec hu
  rcases ends_framed i s t hexec with ⟨-, c, rfl⟩ | ⟨-, hframe⟩
  · exact sameUnit_raise u s _ _
  · exact hframe.units u hu

end Sys2Proof.Machine
end

section
/-! A command's effect depends on its operands and its own unit alone (10_state.md R48, 70_reset_and_hazards.md
R469): two runs of one rule, from states that agree on both. -/

namespace Sys2Proof.Machine

/-- The two states agree on the operands, the count of draws, and unit `u`. -/
structure Agree (u : UnitId) (s s' : State) : Prop where
  arg0 : s.arg0 = s'.arg0
  arg1 : s.arg1 = s'.arg1
  arg2 : s.arg2 = s'.arg2
  draws : s.draws = s'.draws
  unit : sameUnit u s s'

theorem Agree.f0 {u : UnitId} {s s' : State} (h : Agree u s s') : s.f0 = s'.f0 := by
  rw [State.f0, State.f0, h.arg0]

theorem Agree.f1 {u : UnitId} {s s' : State} (h : Agree u s s') : s.f1 = s'.f1 := by
  rw [State.f1, State.f1, h.arg1]

theorem Agree.f2 {u : UnitId} {s s' : State} (h : Agree u s s') : s.f2 = s'.f2 := by
  rw [State.f2, State.f2, h.arg2]

theorem unitInit_of_sameUnit {u : UnitId} {s t : State} (h : sameUnit u s t) :
    unitInit u s = unitInit u t := by
  cases u <;> (simp only [sameUnit] at h; simp only [unitInit, h])

theorem Agree.unitInit {u : UnitId} {s s' : State} (h : Agree u s s') : unitInit u s = unitInit u s' :=
  unitInit_of_sameUnit h.unit

theorem Agree.operandsFinite {u : UnitId} {s s' : State} (h : Agree u s s') (i : Instr) :
    operandsFinite i s = operandsFinite i s' := by
  rw [Machine.operandsFinite, Machine.operandsFinite, h.arg0, h.arg1, h.arg2]

/-- Next states of two runs: the same unit state, and the same results where they were the same before. -/
def Matches (u : UnitId) (s s' t t' : State) : Prop :=
  sameUnit u t t' ∧ (s.res0 = s'.res0 → s.res1 = s'.res1 → t.res0 = t'.res0 ∧ t.res1 = t'.res1)

/-- Two rules that draw alike and whose next states match. -/
def LocalRule (u : UnitId) (s s' : State) (p p' : Dp State) : Prop :=
  ∀ k, (p k).2 = (p' k).2 ∧ ∀ n, Matches u s s' { (p k).1 with draws := n } { (p' k).1 with draws := n }

theorem LocalRule.pure {u : UnitId} {s s' t t' : State}
    (h : ∀ n, Matches u s s' { t with draws := n } { t' with draws := n }) :
    LocalRule u s s' (pure t) (pure t') := fun _ => ⟨rfl, h⟩

/-- Both rules begin with one computation. -/
theorem LocalRule.bind {α : Type} {u : UnitId} {s s' : State} {q q' : Dp α} {f f' : α → Dp State}
    (hq : q = q') (h : ∀ a, LocalRule u s s' (f a) (f' a)) : LocalRule u s s' (q >>= f) (q' >>= f') :=
  hq ▸ fun k => h (q k).1 (q k).2

/-- Two outcomes of which the second completes wherever the first does, alike. -/
def LocalTo (u : UnitId) (s s' : State) (o o' : Host.Outcome State Fault Refusal) : Prop :=
  ∀ t, o = .next t → ∃ t', o' = .next t' ∧ t.draws = t'.draws ∧ Matches u s s' t t'

theorem localTo_raise {u : UnitId} {s s' : State} (h : Agree u s s') (c : Cause) (w : Word) :
    LocalTo u s s' (.next (s.raise c w)) (.next (s'.raise c w)) := by
  rintro _ ⟨⟩
  refine ⟨_, rfl, by simpa using h.draws, ?_, fun e0 e1 => by simp [e0, e1]⟩
  have hunit := h.unit
  cases u <;> simpa [sameUnit] using hunit

theorem localTo_checked {i : Instr} {s s' : State} {r r' : Host.Outcome State Fault Refusal}
    (h : Agree i.unit s s') (hr : LocalTo i.unit s s' r r') :
    LocalTo i.unit s s' (checked i s r) (checked i s' r') := by
  rcases checked_cases i s r with ⟨hop, hinit, heq⟩ | ⟨hinit, hfin, heq⟩ | ⟨hinit, hfin, heq⟩ <;> rw [heq]
  · rw [checked_notInit r' hop (h.unitInit ▸ hinit)]
    exact localTo_raise h _ _
  · rw [checked_badOperand r' (h.unitInit ▸ hinit) (h.operandsFinite i ▸ hfin)]
    exact localTo_raise h _ _
  · rw [checked_pass (h.unitInit ▸ hinit) (h.operandsFinite i ▸ hfin)]
    exact hr

theorem localTo_perform {u : UnitId} {s s' : State} {p p' : Dp State} (h : Agree u s s')
    (hp : LocalRule u s s' p p') : LocalTo u s s' (perform s p) (perform s' p') := by
  rintro _ ⟨⟩
  obtain ⟨hdraws, hmatch⟩ := hp s.draws
  rw [perform_eq, ← h.draws, ← hdraws]
  exact ⟨_, rfl, rfl, hmatch _⟩

theorem localTo_performLine {α : Type} {u : UnitId} {s s' : State} {q q' : Dp (Option α)}
    {f f' : α → State} (h : Agree u s s') (hq : q = q')
    (hf : ∀ a n, Matches u s s' { f a with draws := n } { f' a with draws := n }) :
    LocalTo u s s' (performLine s do let r ← q; pure (r.map f))
      (performLine s' do let r ← q'; pure (r.map f')) := by
  subst hq
  have hrun (t : State) (g : α → State) :
      performLine t (do let r ← q; pure (r.map g)) =
        match (q t.draws).1 with
        | some a => .next { g a with draws := (q t.draws).2 }
        | none => .refused Refusal.lineRange := by
    rw [performLine]
    show (match (q t.draws).1.map g with
      | some t' => Host.Outcome.next { t' with draws := (q t.draws).2 }
      | none => .refused Refusal.lineRange) = _
    cases (q t.draws).1 <;> rfl
  rw [hrun, hrun, ← h.draws]
  cases (q s.draws).1 with
  | none => rintro _ ⟨⟩
  | some a =>
    rintro _ ⟨⟩
    exact ⟨_, rfl, rfl, hf a _⟩

theorem localTo_initialise {i : Instr} {s s' : State} {p p' : F32 → Dp State} (h : Agree i.unit s s')
    (hp : LocalRule i.unit s s' (p s.f0) (p' s.f0)) :
    LocalTo i.unit s s' (initialise i s p) (initialise i s' p') := by
  rcases initialise_cases i s p with ⟨hlt, heq⟩ | ⟨hlt, heq⟩ <;>
    rcases initialise_cases i s' p' with ⟨hlt', heq'⟩ | ⟨hlt', heq'⟩ <;> rw [heq, heq']
  · exact localTo_perform h (h.f0 ▸ hp)
  · simp [← h.f0, hlt] at hlt'
  · simp [← h.f0, hlt] at hlt'
  · exact localTo_raise h _ _

/-- Both runs compute the same things from the operands and the unit, and store them alike. The cases are the
shapes a rule has. -/
theorem localTo_exec (i : Instr) {s s' : State} (h : Agree i.unit s s') :
    LocalTo i.unit s s' (exec i s) (exec i s') := by
  have hunit := h.unit
  have h0 := h.f0
  have h1 := h.f1
  have h2 := h.f2
  have ha := h.arg0
  cases i with
  | bqInit | opInit | lfoInit =>
    exact localTo_checked h (localTo_initialise h (.pure fun n => ⟨rfl, fun e0 e1 => ⟨e0, e1⟩⟩))
  | dlyInit | trsInit | trqInit | trhInit | rvpInit | rvhInit | rvsInit =>
    exact localTo_checked h (localTo_initialise h
      (.bind rfl fun u => .pure fun n => ⟨rfl, fun e0 e1 => ⟨e0, e1⟩⟩))
  | dlyProcess | rvhProcess =>
    simp only [sameUnit, Instr.unit] at hunit
    exact localTo_checked h (localTo_performLine h (by rw [hunit, h0, h1])
      fun a n => ⟨rfl, fun _ _ => ⟨rfl, rfl⟩⟩)
  | trsProcess | trqProcess | trhProcess | rvpProcess | rvsProcess =>
    simp only [sameUnit, Instr.unit] at hunit
    exact localTo_checked h (localTo_perform h (.bind (by rw [hunit, h0, h1])
      fun a => .pure fun n => ⟨rfl, fun _ _ => ⟨rfl, rfl⟩⟩))
  | bqProcess | opProcess | lfoProcess =>
    simp only [sameUnit, Instr.unit] at hunit
    exact localTo_checked h (localTo_perform h (.bind (by simp only [hunit, h0])
      fun a => .pure fun n => ⟨by simp [sameUnit, Instr.unit, hunit], fun _ _ => ⟨rfl, rfl⟩⟩))
  | trsGetLastLfo | trqGetLastLfo | trhGetLastLfo =>
    simp only [sameUnit, Instr.unit] at hunit
    exact localTo_checked h (localTo_perform h
      (.pure fun n => ⟨hunit, fun _ _ => ⟨by simp only [State.respond_res0, hunit], rfl⟩⟩))
  | bqClear | opClear | lfoClear | lfoSetWaveform | dlyClear | rvpClear | rvpSetTankModSpeed
  | rvpSetTankModDepth | rvpSetTankModShape | rvhClear | rvhSetTankModDepth | rvhSetTankModShape
  | rvsClear | rvsSetTankModSpeed | rvsSetTankModDepth | rvsSetTankModShape =>
    simp only [sameUnit, Instr.unit] at hunit
    exact localTo_checked h (localTo_perform h (.pure fun n =>
      ⟨by simp only [sameUnit, Instr.unit, hunit, ha], fun e0 e1 => ⟨e0, e1⟩⟩))
  | rvhSetPredelay | rvsSetDecay =>
    simp only [sameUnit, Instr.unit] at hunit
    exact localTo_checked h (localTo_perform h (.bind (by rw [h0]) fun v => .bind rfl fun d =>
      .pure fun n => ⟨by simp only [sameUnit, Instr.unit, hunit], fun e0 e1 => ⟨e0, e1⟩⟩))
  | _ =>
    simp only [sameUnit, Instr.unit] at hunit
    exact localTo_checked h (localTo_perform h (.bind (by simp only [hunit, h0, h1, h2, ha]) fun v =>
      .pure fun n => ⟨by simp only [sameUnit, Instr.unit, hunit, ha], fun e0 e1 => ⟨e0, e1⟩⟩))

/-- Settles O16: the two runs of the command match. -/
theorem unitResultsLocal : Obligations.UnitResultsLocal := by
  unfold Obligations.UnitResultsLocal
  intro i s s' t ha0 ha1 ha2 hdraws hunit hexec
  obtain ⟨t', hexec', hd, hsame, hres⟩ := localTo_exec i ⟨ha0, ha1, ha2, hdraws, hunit⟩ t hexec
  exact ⟨t', hexec', hsame, hd, hres⟩

end Sys2Proof.Machine
end

section
/-! What a step can do to the block (20_memory.md R84, 60_exceptions.md R403): everything but a block reset and
a command leaves the units alone. From it, the error record and the lifecycle, and how an invariant of the
units is proved of every step. -/

namespace Sys2Proof.Machine

/-- A write that is admitted at offset 0 is a `CMD` write. -/
theorem cmdWrite_of_offset_zero {a : Access} (h : a.admitted = true) (hk : a.kind = .write)
    (ho : a.off.toNat = 0) : HostEvent.access a = cmdWrite a.data := by
  obtain ⟨kind, width, off, data⟩ := a
  obtain ⟨-, hw, -⟩ := (Access.admitted_iff _).1 h
  cases hk
  cases hw
  cases BitVec.eq_of_toNat_eq (x := off) (y := 0#32) ho
  rfl

theorem sameUnit_pending_raise (u : UnitId) (s : State) (rest : List HostEvent) (c : Cause) (w : Word) :
    sameUnit u s (({ s with pending := rest } : State).raise c w) := by
  cases u <;> simp [sameUnit]

/-- Everything a step that completes can have done: a command, a block reset, or nothing to any unit. -/
theorem step_inv {s t : State} (h : step s = .next t) :
    (∃ i rest, s.pending = cmdWrite (encode i) :: rest ∧
      exec i { s with pending := rest } = .next t) ∨
    (s.pending.head? = some .blockReset ∧ ∃ s', t = blockReset s') ∨ ∀ u, sameUnit u s t := by
  rcases step_cases s with ⟨-, heq⟩ | ⟨e, rest, hp, heq⟩ <;> rw [heq] at h
  · cases h
    exact .inr (.inr fun u => sameUnit_refl u s)
  · cases e with
    | concurrent a b => cases h
    | blockReset =>
      cases h
      exact .inr (.inl ⟨by rw [hp]; rfl, _, rfl⟩)
    | access a =>
      rcases hostAccess_cases execute a { s with pending := rest } with
        ⟨-, ha⟩ | ⟨-, -, ha⟩ | ⟨-, -, -, ha⟩ | ⟨-, -, ha⟩ | ⟨hadm, hk, ha⟩ <;>
        rw [hostEvent, ha] at h
      · cases h
      · cases h
      · cases h
      · cases h
        exact .inr (.inr fun u => by cases u <;> rfl)
      · rcases memWrite_cases execute a.off.toNat a.data { s with pending := rest } with
          ⟨ho, hm⟩ | ⟨-, hm⟩ | ⟨-, hm⟩ | ⟨-, hm⟩ | ⟨-, hm⟩ <;> rw [hm] at h
        · rcases execute_cases a.data { s with pending := rest } with ⟨c, -, hx⟩ | ⟨i, hdec, hx⟩ <;>
            rw [hx] at h
          · cases h
            exact .inr (.inr fun u => sameUnit_pending_raise u s _ _ _)
          · refine .inl ⟨i, rest, ?_, h⟩
            rw [hp, cmdWrite_of_offset_zero hadm hk ho, (decodeEncodeAgree _ _).1 hdec]
        · cases h
          exact .inr (.inr fun u => by cases u <;> rfl)
        · cases h
          exact .inr (.inr fun u => by cases u <;> rfl)
        · cases h
          exact .inr (.inr fun u => by cases u <;> rfl)
        · cases h
          exact .inr (.inr fun u => sameUnit_pending_raise u s _ _ _)

/-- A property of the units that holds after reset and that every command keeps, every step keeps. -/
theorem step_keeps {P : State → Prop} (hunits : ∀ s t, (∀ u, sameUnit u s t) → P s → P t)
    (hreset : P State.reset) (hexec : ∀ i s t, P s → exec i s = .next t → P t) {s t : State}
    (hs : P s) (h : step s = .next t) : P t := by
  rcases step_inv h with ⟨i, rest, -, hx⟩ | ⟨-, s', rfl⟩ | hsame
  · exact hexec i _ t (hunits s _ (fun u => by cases u <;> rfl) hs) hx
  · exact hunits State.reset _ (fun u => by cases u <;> rfl) hreset
  · exact hunits s t hsame hs

/-! The error record. -/

theorem errorRecord_reset (s : State) : ErrorRecord (blockReset s) :=
  ⟨fun _ => ⟨rfl, rfl⟩, fun h => absurd h (by simp [State.reset])⟩

theorem ErrorStep.record {s t : State} (h : ErrorStep s t) (hs : ErrorRecord s) : ErrorRecord t := by
  rcases h with ⟨herr, hcause, hcmd⟩ | ⟨-, herr, c, hcause⟩
  · exact ⟨fun h => hcause ▸ hcmd ▸ hs.none (herr.trans h), fun h => hcause ▸ hs.some (herr.trans h)⟩
  · refine ⟨fun h => by simp [herr] at h, fun _ => ?_⟩
    rw [hcause]
    cases c <;> decide

/-- Settles O10: a block reset clears the record; every other step keeps it or makes its one entry. -/
theorem errorRecordKept : Obligations.ErrorRecordKept := by
  unfold Obligations.ErrorRecordKept
  intro s t hs h
  by_cases hreset : s.pending.head? = some .blockReset
  · obtain ⟨rest, hp⟩ := List.head?_eq_some_iff.1 hreset
    rw [step_blockReset hp] at h
    cases h
    exact errorRecord_reset _
  · exact (errorStepTo_step hreset t h).record hs

/-! Every rule leaves its unit initialised. -/

theorem yields_trhStep (c : Cfg) (u : TrhUnit) (x y : F32) :
    Yields (trhStep c u x y) fun r => ∃ n l chL chR,
      r.1 = { u with o := (advance c u.o n).1, last := l, chL := chL, chR := chR } :=
  fun _ => ⟨_, _, _, _, rfl⟩

/-- A sample of the Spring pushes one sample into each of its five lines (R350 to R353). -/
theorem yields_rvsStep (c : Cfg) (u : RvsUnit) (x y : F32) :
    Yields (rvsStep c u x y) fun r => ∃ b d0 d1 d2 d3 z,
      r.1 = { u with
        wg := u.wg.push (c.rvsLen + 1) b, da0 := u.da0.push (c.rvsApLen 0 + 1) d0,
        da1 := u.da1.push (c.rvsApLen 1 + 1) d1, da2 := u.da2.push (c.rvsApLen 2 + 1) d2,
        da3 := u.da3.push (c.rvsApLen 3 + 1) d3, z := z } :=
  fun _ => ⟨_, _, _, _, _, _, rfl⟩

/-- A sample of the delay pushes one sample into each of its two lines (R202). -/
theorem yields_dlyStep (c : Cfg) (u : DlyUnit) (x y : F32) :
    Yields (dlyStep c u x y) fun r => ∀ a ∈ r, ∃ n vL vR,
      a.1 = { u with
        dc := (dlyDelay c u n).1.1, lineL := u.lineL.push (dlyLen c) vL,
        lineR := u.lineR.push (dlyLen c) vR } := by
  intro k a ha
  have hrun : dlyStep c u x y k = (if lineReadable (dlyLen c) (dlyDelay c u k).1.2 then _ else _ : Dp _)
      (dlyDelay c u k).2 := rfl
  rw [hrun] at ha
  split at ha
  · cases ha
    exact ⟨k, _, _, rfl⟩
  · cases ha

theorem yields_allpass (c : Cfg) (len : Nat) (l : Line) (g x : F32) :
    Yields (allpass c len l g x) fun r => ∃ v, r.2 = l.push (len + 1) v :=
  fun _ => ⟨_, rfl⟩

theorem yields_eightDp {α : Type} {f : Fin 8 → Dp α} {P : Fin 8 → α → Prop}
    (h : ∀ k, Yields (f k) (P k)) : Yields (eightDp f) fun v => ∀ k, P k (v.get k) := by
  intro n k
  fin_cases k <;> exact h _ _

theorem yields_hallDelays (c : Cfg) (u : RvhUnit) :
    Yields (hallDelays c u) fun r => ∃ n, r.1 = (advance c u.o n).1 :=
  fun _ => ⟨_, rfl⟩

theorem yields_hallNetwork (c : Cfg) (u : RvhUnit) (ds : Eight F32) (v : F32) :
    Yields (hallNetwork c u ds v) fun r => ∀ k, ∃ x, r.1.get k = (u.ln.get k).push (hallLen c k) x := by
  unfold hallNetwork
  exact .bind_any fun yf => .bind_any fun m =>
    .bind (yields_eightDp (P := fun k l => ∃ x, l = (u.ln.get k).push (hallLen c k) x)
      fun k _ => ⟨_, rfl⟩)
    fun ln hln => .bind_any fun wetL => .bind_any fun wetR => .pure hln

/-- A sample of the Hall pushes one sample into each of its eleven lines (R310 to R318). -/
theorem yields_rvhStep (c : Cfg) (u : RvhUnit) (x y : F32) :
    Yields (rvhStep c u x y) fun r => ∀ a ∈ r, ∃ p a0 a1 ln z n,
      (∀ k, ∃ v, ln.get k = (u.ln.get k).push (hallLen c k) v) ∧
      a.1 = { u with
        pre := u.pre.push (c.rvhPredelayMax + 1) p, ap0 := u.ap0.push (c.rvhApLen 0 + 1) a0,
        ap1 := u.ap1.push (c.rvhApLen 1 + 1) a1, ln := ln, z := z, o := (advance c u.o n).1 } := by
  unfold rvhStep
  refine .bind_any fun p => .bind (yields_allpass c _ _ _ _) ?_
  rintro ⟨_, _⟩ ⟨a0, rfl⟩
  refine .bind (yields_allpass c _ _ _ _) ?_
  rintro ⟨_, _⟩ ⟨a1, rfl⟩
  refine .bind (yields_hallDelays c u) ?_
  rintro ⟨_, ds⟩ ⟨n, rfl⟩
  dsimp only
  split
  · refine .bind (yields_hallNetwork c u ds _) ?_
    rintro ⟨ln, z, wetL, wetR⟩ hln
    refine .bind_any fun outL => .bind_any fun outR => .pure ?_
    rintro _ ⟨⟩
    exact ⟨p, a0, a1, ln, z, n, hln, rfl⟩
  · exact .pure (by rintro _ ⟨⟩)

end Sys2Proof.Machine
end

section
/-! Each unit as a transition system (41_oscillator.md to 46_reverb_spring.md): all that a command can make of a
unit's state, said once per unit. `…Move u u'` lists it, and `…_exec` says that every command makes one of
these moves. -/

namespace Sys2Proof.Machine

/-! What an admitted command knows of its operands. -/

theorem Admits.validRate {i : Instr} {s : State} (h : Admits i s) (hop : i.op = 0x00#8) :
    validRate s.f0 := by
  have hfin := h.1.2
  rw [operandsFinite_init hop] at hfin
  refine ⟨Config.cfg.flush_finite hfin, ?_⟩
  have hlt := h.2 hop
  rwa [Cfg.lt, Config.cfg.flush_solid (x := F32.zero) (by decide)] at hlt

theorem Admits.finite0 {i : Instr} {s : State} (h : Admits i s) (hn : f32Operands i = 1) :
    F32.isFinite s.f0 = true := by
  have hfin := h.1.2
  rw [operandsFinite, hn] at hfin
  exact Config.cfg.flush_finite hfin

theorem Admits.initialised {i : Instr} {s : State} (h : Admits i s) (hop : i.op ≠ 0x00#8) :
    unitInit i.unit s = true :=
  h.1.1.resolve_left hop

/-- A clamp to [0,1] of a finite value is a normalised value (R272). -/
theorem inUnit_unitClamped {x : F32} (h : F32.isNaN x = false) : F32.inUnit (F32.unitClamped x) = true := by
  have hzn : F32.isNaN F32.zero = false := by decide
  have hon : F32.isNaN F32.one = false := by decide
  unfold F32.unitClamped
  split
  · decide
  · rename_i h0
    split
    · rename_i h1
      rw [Bool.not_eq_false] at h0
      have hlo := (F32.lt_elim h0).2.2
      have hhi := (F32.lt_elim h1).2.2
      rw [F32.inUnit, Bool.and_eq_true]
      exact ⟨(F32.le_iff hzn h).2 hlo.le, (F32.le_iff h hon).2 hhi.le⟩
    · decide

theorem yields_clampUnit (c : Cfg) {v : F32} (h : F32.isFinite v = true) :
    Yields (c.clampUnit v) fun r => F32.inUnit r = true := by
  intro k
  rw [clampUnit_run c (F32.not_isNaN_of_finite h)]
  exact inUnit_unitClamped (F32.not_isNaN_of_finite (c.flush_finite h))

/-! The moves. -/

/-- All that a command can make of LFO. -/
inductive LfoMove (u : LfoUnit) : LfoUnit → Prop
  | keep : LfoMove u u
  | init {fs : F32} (hfs : validRate fs) : LfoMove u { init := true, fs := fs, o := Osc.initial }
  | process (hu : u.init = true) (n : Nat) : LfoMove u { u with o := (advance Config.cfg u.o n).1 }
  | clear (hu : u.init = true) :
      LfoMove u { u with o := { u.o with phase := F32.zero, eoc := false, eorh := false } }
  | freq (hu : u.init = true) {hz : F32} (hhz : F32.isFinite hz = true) (n : Nat) :
      LfoMove u { u with o := (setFreq Config.cfg u.o hz u.fs n).1 }
  | amp (hu : u.init = true) {v : F32} (hv : F32.inUnit v = true) :
      LfoMove u { u with o := { u.o with amp := v } }
  | wave (hu : u.init = true) (w : Word) : LfoMove u { u with o := { u.o with wave := waveOf w } }

/-- All that a command can make of DLY. -/
inductive DlyMove (u : DlyUnit) : DlyUnit → Prop
  | keep : DlyMove u u
  | init {fs : F32} (hfs : validRate fs) (n : Nat) : DlyMove u (dlyInitial Config.cfg fs n).1
  | process (hu : u.init = true) (n : Nat) (vL vR : F32) :
      DlyMove u { u with
        dc := (dlyDelay Config.cfg u n).1.1, lineL := u.lineL.push (dlyLen Config.cfg) vL,
        lineR := u.lineR.push (dlyLen Config.cfg) vR }
  | clear (hu : u.init = true) : DlyMove u { u with lineL := Line.zero, lineR := Line.zero }
  | time (hu : u.init = true) {v : F32} (hv : F32.isFinite v = true) (n : Nat) :
      DlyMove u { u with dt := (Config.cfg.clamp v u.dlo u.dmax n).1 }
  | feedback (hu : u.init = true) {v : F32} (hv : F32.inUnit v = true) : DlyMove u { u with fb := v }

/-- All that a command can make of TRS or TRQ, whose waveform is `w`. -/
inductive TrmMove (w : Wave) (u : TrmUnit) : TrmUnit → Prop
  | keep : TrmMove w u u
  | init {fs : F32} (hfs : validRate fs) (n : Nat) : TrmMove w u (trmInitial Config.cfg w fs n).1
  | process (hu : u.init = true) (n : Nat) (l : F32) :
      TrmMove w u { u with o := (advance Config.cfg u.o n).1, last := l }
  | speed (hu : u.init = true) {hz : F32} (hhz : F32.isFinite hz = true) (n : Nat) :
      TrmMove w u { u with o := (setFreq Config.cfg u.o hz u.fs n).1 }
  | depth (hu : u.init = true) {v : F32} (hv : F32.inUnit v = true) (a : F32) :
      TrmMove w u { u with depth := v, o := { u.o with amp := a } }

/-- All that a command can make of TRH. -/
inductive TrhMove (u : TrhUnit) : TrhUnit → Prop
  | keep : TrhMove u u
  | init {fs : F32} (hfs : validRate fs) (n : Nat) : TrhMove u (trhInitial Config.cfg fs n).1
  | process (hu : u.init = true) (n : Nat) (l : F32) (chL chR : TrhChan) :
      TrhMove u { u with o := (advance Config.cfg u.o n).1, last := l, chL := chL, chR := chR }
  | speed (hu : u.init = true) {hz : F32} (hhz : F32.isFinite hz = true) (n : Nat) :
      TrhMove u { u with o := (setFreq Config.cfg u.o hz u.fs n).1 }
  | depth (hu : u.init = true) {v : F32} (hv : F32.inUnit v = true) (a : F32) :
      TrhMove u { u with depth := v, o := { u.o with amp := a } }

/-- One parameter of a reverb set to a normalised value, or a position changed (R271 to R273). -/
inductive RvParams.Move (p : RvParams) : RvParams → Prop
  | mix {v : F32} (hv : F32.inUnit v = true) : Move p { p with mix := v }
  | decay {v : F32} (hv : F32.inUnit v = true) : Move p { p with decay := v }
  | diffusion {v : F32} (hv : F32.inUnit v = true) : Move p { p with diffusion := v }
  | predelay {v : F32} (hv : F32.inUnit v = true) : Move p { p with predelay := v }
  | inhc {v : F32} (hv : F32.inUnit v = true) : Move p { p with inhc := v }
  | tankhc {v : F32} (hv : F32.inUnit v = true) : Move p { p with tankhc := v }
  | spos (q : Fin 3) : Move p { p with spos := q }
  | dpos (q : Fin 3) : Move p { p with dpos := q }
  | shpos (q : Fin 3) : Move p { p with shpos := q }

/-- All that a command can make of RVP: the plate's own state may be any (R280). -/
inductive RvpMove (u : RvpUnit) : RvpUnit → Prop
  | keep : RvpMove u u
  | init (fs : F32) (n : Nat) (σ : PlateState) :
      RvpMove u { init := true, fs := fs, p := (rvDefaults Config.cfg n).1, sigma := σ }
  | signal (hu : u.init = true) (σ : PlateState) : RvpMove u { u with sigma := σ }
  | params (hu : u.init = true) {p : RvParams} (hp : u.p.Move p) (σ : PlateState) :
      RvpMove u { u with p := p, sigma := σ }

/-- All that a command can make of RVH. -/
inductive RvhMove (u : RvhUnit) : RvhUnit → Prop
  | keep : RvhMove u u
  | init {fs : F32} (hfs : validRate fs) (n : Nat) : RvhMove u (rvhInitial Config.cfg fs n).1
  | process (hu : u.init = true) (p a0 a1 : F32) {ln : Eight Line} (z : Eight F32) (n : Nat)
      (hln : ∀ k, ∃ v, ln.get k = (u.ln.get k).push (hallLen Config.cfg k) v) :
      RvhMove u { u with
        pre := u.pre.push (Config.cfg.rvhPredelayMax + 1) p,
        ap0 := u.ap0.push (Config.cfg.rvhApLen 0 + 1) a0,
        ap1 := u.ap1.push (Config.cfg.rvhApLen 1 + 1) a1, ln := ln, z := z,
        o := (advance Config.cfg u.o n).1 }
  | clear (hu : u.init = true) :
      RvhMove u { u with
        pre := Line.zero, ap0 := Line.zero, ap1 := Line.zero, ln := Eight.all Line.zero,
        z := Eight.all F32.zero }
  | params (hu : u.init = true) {p : RvParams} (hp : u.p.Move p) : RvhMove u { u with p := p }
  | decay (hu : u.init = true) {v : F32} (hv : F32.inUnit v = true) :
      RvhMove u { u with p := { u.p with decay := v }, g := Config.cfg.rvhDecayMap v }
  | predelay (hu : u.init = true) {v : F32} (hv : F32.inUnit v = true) (n : Nat) :
      RvhMove u { u with p := { u.p with predelay := v }, pd := (hallPd Config.cfg v n).1 }
  | tankhc (hu : u.init = true) {v : F32} (hv : F32.inUnit v = true) :
      RvhMove u { u with p := { u.p with tankhc := v }, ad := Config.cfg.rvhHcMap v }
  | speed (hu : u.init = true) (q : Fin 3) (n : Nat) :
      RvhMove u { u with
        p := { u.p with spos := q },
        o := (setFreq Config.cfg u.o (Config.cfg.rvhSpeedTable q) u.fs n).1 }

/-- All that a command can make of RVS. -/
inductive RvsMove (u : RvsUnit) : RvsUnit → Prop
  | keep : RvsMove u u
  | init (fs : F32) (n : Nat) : RvsMove u (rvsInitial Config.cfg fs n).1
  | process (hu : u.init = true) (b d0 d1 d2 d3 z : F32) :
      RvsMove u { u with
        wg := u.wg.push (Config.cfg.rvsLen + 1) b,
        da0 := u.da0.push (Config.cfg.rvsApLen 0 + 1) d0,
        da1 := u.da1.push (Config.cfg.rvsApLen 1 + 1) d1,
        da2 := u.da2.push (Config.cfg.rvsApLen 2 + 1) d2,
        da3 := u.da3.push (Config.cfg.rvsApLen 3 + 1) d3, z := z }
  | clear (hu : u.init = true) :
      RvsMove u { u with
        wg := Line.zero, da0 := Line.zero, da1 := Line.zero, da2 := Line.zero, da3 := Line.zero,
        z := F32.zero }
  | params (hu : u.init = true) {p : RvParams} (hp : u.p.Move p) : RvsMove u { u with p := p }
  | decay (hu : u.init = true) {v : F32} (hv : F32.inUnit v = true) (n : Nat) :
      RvsMove u { u with p := { u.p with decay := v }, g := (springGain Config.cfg v n).1 }

/-! Every command makes one of the moves. -/

/-- A relation on one unit that its own commands make and that no move at all satisfies holds of every
command. -/
theorem moves_of_ends {α : Type} {get : State → α} {M : α → α → Prop} {u : UnitId}
    (hget : ∀ s t, sameUnit u s t → get s = get t) (hkeep : ∀ x, M x x)
    (h : ∀ i s, i.unit = u → Ends i s (fun t => M (get s) (get t)) (exec i s)) {i : Instr} {s t : State}
    (hexec : exec i s = .next t) : M (get s) (get t) := by
  by_cases hu : i.unit = u
  · rcases h i s hu t hexec with ⟨-, c, rfl⟩ | ⟨-, hm⟩
    · rw [← hget _ _ (sameUnit_raise u s c (encode i))]
      exact hkeep _
    · exact hm
  · rw [← hget s t (unitsIndependent i s t u hexec (Ne.symm hu))]
    exact hkeep _

theorem lfoMove_exec {i : Instr} {s t : State} (h : exec i s = .next t) : LfoMove s.lfo t.lfo := by
  refine moves_of_ends (u := .lfo) (get := State.lfo) (fun _ _ h => h) (fun _ => .keep) (fun i s hu => ?_) h
  cases i with
  | lfoInit =>
    exact ends_initialise rfl fun hadm => .pure fun _ => .init (hadm.validRate rfl)
  | lfoProcess =>
    exact ends_perform (by decide) fun hadm k n => .process (hadm.initialised (by decide)) _
  | lfoClear =>
    exact ends_perform (by decide) fun hadm => .pure fun _ => .clear (hadm.initialised (by decide))
  | lfoSetFreq =>
    exact ends_perform (by decide) fun hadm k n =>
      .freq (hadm.initialised (by decide)) (hadm.finite0 rfl) _
  | lfoSetAmp =>
    exact ends_perform (by decide) fun hadm => .bind (yields_clampUnit _ (hadm.finite0 rfl)) fun v hv =>
      .pure fun _ => .amp (hadm.initialised (by decide)) hv
  | lfoSetWaveform =>
    exact ends_perform (by decide) fun hadm => .pure fun _ => .wave (hadm.initialised (by decide)) _
  | _ => exact absurd hu (by decide)

theorem dlyMove_exec {i : Instr} {s t : State} (h : exec i s = .next t) : DlyMove s.dly t.dly := by
  refine moves_of_ends (u := .dly) (get := State.dly) (fun _ _ h => h) (fun _ => .keep) (fun i s hu => ?_) h
  cases i with
  | dlyInit =>
    exact ends_initialise rfl fun hadm k n => .init (hadm.validRate rfl) _
  | dlyProcess =>
    refine ends_performLine (by decide) fun hadm k a ha n => ?_
    obtain ⟨m, vL, vR, hu⟩ := yields_dlyStep Config.cfg s.dly s.f0 s.f1 k a ha
    show DlyMove s.dly a.1
    rw [hu]
    exact .process (hadm.initialised (by decide)) _ _ _
  | dlyClear =>
    exact ends_perform (by decide) fun hadm => .pure fun _ => .clear (hadm.initialised (by decide))
  | dlySetDelayTime =>
    exact ends_perform (by decide) fun hadm k n =>
      .time (hadm.initialised (by decide)) (hadm.finite0 rfl) _
  | dlySetFeedback =>
    exact ends_perform (by decide) fun hadm => .bind (yields_clampUnit _ (hadm.finite0 rfl)) fun v hv =>
      .pure fun _ => .feedback (hadm.initialised (by decide)) hv
  | _ => exact absurd hu (by decide)

/-- A depth setter clamps the depth and derives the amplitude (R231). -/
theorem yields_setDepth (c : Cfg) (o : Osc) {d : F32} (k : F32) (h : F32.isFinite d = true) :
    Yields (setDepth c o d k) fun r => F32.inUnit r.1 = true ∧ ∃ a, r.2 = { o with amp := a } :=
  .bind (yields_clampUnit c h) fun _ hv => .bind_any fun a => .pure ⟨hv, a, rfl⟩

theorem trsMove_exec {i : Instr} {s t : State} (h : exec i s = .next t) : TrmMove .sine s.trs t.trs := by
  refine moves_of_ends (u := .trs) (get := State.trs) (fun _ _ h => h) (fun _ => .keep) (fun i s hu => ?_) h
  cases i with
  | trsInit =>
    exact ends_initialise rfl fun hadm k n => .init (hadm.validRate rfl) _
  | trsProcess =>
    exact ends_perform (by decide) fun hadm k n => .process (hadm.initialised (by decide)) _ _
  | trsSetSpeed =>
    exact ends_perform (by decide) fun hadm k n =>
      .speed (hadm.initialised (by decide)) (hadm.finite0 rfl) _
  | trsSetDepth =>
    refine ends_perform (by decide) fun hadm => .bind (yields_setDepth _ _ _ (hadm.finite0 rfl)) ?_
    rintro ⟨v, _⟩ ⟨hv, a, rfl⟩
    exact .pure fun _ => .depth (hadm.initialised (by decide)) hv a
  | trsGetLastLfo => exact ends_perform (by decide) fun _ => .pure fun _ => .keep
  | _ => exact absurd hu (by decide)

theorem trqMove_exec {i : Instr} {s t : State} (h : exec i s = .next t) :
    TrmMove .rsquare s.trq t.trq := by
  refine moves_of_ends (u := .trq) (get := State.trq) (fun _ _ h => h) (fun _ => .keep) (fun i s hu => ?_) h
  cases i with
  | trqInit =>
    exact ends_initialise rfl fun hadm k n => .init (hadm.validRate rfl) _
  | trqProcess =>
    exact ends_perform (by decide) fun hadm k n => .process (hadm.initialised (by decide)) _ _
  | trqSetSpeed =>
    exact ends_perform (by decide) fun hadm k n =>
      .speed (hadm.initialised (by decide)) (hadm.finite0 rfl) _
  | trqSetDepth =>
    refine ends_perform (by decide) fun hadm => .bind (yields_setDepth _ _ _ (hadm.finite0 rfl)) ?_
    rintro ⟨v, _⟩ ⟨hv, a, rfl⟩
    exact .pure fun _ => .depth (hadm.initialised (by decide)) hv a
  | trqGetLastLfo => exact ends_perform (by decide) fun _ => .pure fun _ => .keep
  | _ => exact absurd hu (by decide)

theorem trhMove_exec {i : Instr} {s t : State} (h : exec i s = .next t) : TrhMove s.trh t.trh := by
  refine moves_of_ends (u := .trh) (get := State.trh) (fun _ _ h => h) (fun _ => .keep) (fun i s hu => ?_) h
  cases i with
  | trhInit =>
    exact ends_initialise rfl fun hadm k n => .init (hadm.validRate rfl) k
  | trhProcess =>
    refine ends_perform (by decide) fun hadm => .bind (yields_trhStep Config.cfg s.trh s.f0 s.f1) ?_
    rintro ⟨_, l, r⟩ ⟨n, lfo, chL, chR, rfl⟩
    exact .pure fun _ => .process (hadm.initialised (by decide)) n lfo chL chR
  | trhSetSpeed =>
    exact ends_perform (by decide) fun hadm k n =>
      .speed (hadm.initialised (by decide)) (hadm.finite0 rfl) _
  | trhSetDepth =>
    refine ends_perform (by decide) fun hadm => .bind (yields_setDepth _ _ _ (hadm.finite0 rfl)) ?_
    rintro ⟨v, _⟩ ⟨hv, a, rfl⟩
    exact .pure fun _ => .depth (hadm.initialised (by decide)) hv a
  | trhGetLastLfo => exact ends_perform (by decide) fun _ => .pure fun _ => .keep
  | _ => exact absurd hu (by decide)

/-- A setter that clamps its operand and stores it. -/
theorem ends_clampSetter {i : Instr} {s : State} {Q : State → Prop} {f : F32 → State}
    (hop : i.op ≠ 0x00#8) (hn : f32Operands i = 1)
    (h : ∀ v n, unitInit i.unit s = true → F32.inUnit v = true → Q { f v with draws := n }) :
    Ends i s Q (checked i s (perform s do let v ← Config.cfg.clampUnit s.f0; pure (f v))) :=
  ends_perform hop fun hadm => .bind (yields_clampUnit _ (hadm.finite0 hn)) fun v hv =>
    .pure fun n => h v n (hadm.initialised hop) hv

/-- A rule that computes nothing. -/
theorem ends_pure {i : Instr} {s t : State} {Q : State → Prop} (hop : i.op ≠ 0x00#8)
    (h : ∀ n, unitInit i.unit s = true → Q { t with draws := n }) :
    Ends i s Q (checked i s (perform s (pure t))) :=
  ends_perform hop fun hadm => .pure fun n => h n (hadm.initialised hop)

theorem rvpMove_exec {i : Instr} {s t : State} (h : exec i s = .next t) : RvpMove s.rvp t.rvp := by
  refine moves_of_ends (u := .rvp) (get := State.rvp) (fun _ _ h => h) (fun _ => .keep) (fun i s hu => ?_) h
  cases i with
  | rvpInit => exact ends_initialise rfl fun hadm k n => .init _ _ _
  | rvpProcess =>
    exact ends_perform (by decide) fun hadm k n => .signal (hadm.initialised (by decide)) _
  | rvpClear => exact ends_pure (by decide) fun n hu => .signal hu _
  | rvpSetMix =>
    exact ends_clampSetter (by decide) rfl fun v n hu hv => .params (p := { s.rvp.p with mix := v }) hu (.mix hv) _
  | rvpSetDecay => exact ends_clampSetter (by decide) rfl fun v n hu hv => .params hu (.decay hv) _
  | rvpSetDiffusion => exact ends_clampSetter (by decide) rfl fun v n hu hv => .params hu (.diffusion hv) _
  | rvpSetPredelay => exact ends_clampSetter (by decide) rfl fun v n hu hv => .params hu (.predelay hv) _
  | rvpSetInputHighcut => exact ends_clampSetter (by decide) rfl fun v n hu hv => .params hu (.inhc hv) _
  | rvpSetTankHighcut => exact ends_clampSetter (by decide) rfl fun v n hu hv => .params hu (.tankhc hv) _
  | rvpSetTankModSpeed => exact ends_pure (by decide) fun n hu => .params hu (.spos _) _
  | rvpSetTankModDepth => exact ends_pure (by decide) fun n hu => .params hu (.dpos _) _
  | rvpSetTankModShape => exact ends_pure (by decide) fun n hu => .params hu (.shpos _) _
  | _ => exact absurd hu (by decide)

theorem rvhMove_exec {i : Instr} {s t : State} (h : exec i s = .next t) : RvhMove s.rvh t.rvh := by
  refine moves_of_ends (u := .rvh) (get := State.rvh) (fun _ _ h => h) (fun _ => .keep) (fun i s hu => ?_) h
  cases i with
  | rvhInit => exact ends_initialise rfl fun hadm k n => .init (hadm.validRate rfl) _
  | rvhProcess =>
    refine ends_performLine (by decide) fun hadm k a ha n => ?_
    obtain ⟨p, a0, a1, ln, z, m, hln, hu⟩ := yields_rvhStep Config.cfg s.rvh s.f0 s.f1 k a ha
    show RvhMove s.rvh a.1
    rw [hu]
    exact .process (hadm.initialised (by decide)) _ _ _ _ _ hln
  | rvhClear => exact ends_pure (by decide) fun n hu => .clear hu
  | rvhSetMix => exact ends_clampSetter (by decide) rfl fun v n hu hv => .params hu (.mix hv)
  | rvhSetDecay => exact ends_clampSetter (by decide) rfl fun v n hu hv => .decay hu hv
  | rvhSetDiffusion => exact ends_clampSetter (by decide) rfl fun v n hu hv => .params hu (.diffusion hv)
  | rvhSetPredelay =>
    exact ends_perform (by decide) fun hadm => .bind (yields_clampUnit _ (hadm.finite0 rfl)) fun v hv k n =>
      .predelay (hadm.initialised (by decide)) hv _
  | rvhSetInputHighcut => exact ends_clampSetter (by decide) rfl fun v n hu hv => .params hu (.inhc hv)
  | rvhSetTankHighcut => exact ends_clampSetter (by decide) rfl fun v n hu hv => .tankhc hu hv
  | rvhSetTankModSpeed =>
    exact ends_perform (by decide) fun hadm k n => .speed (hadm.initialised (by decide)) _ _
  | rvhSetTankModDepth => exact ends_pure (by decide) fun n hu => .params hu (.dpos _)
  | rvhSetTankModShape => exact ends_pure (by decide) fun n hu => .params hu (.shpos _)
  | _ => exact absurd hu (by decide)

theorem rvsMove_exec {i : Instr} {s t : State} (h : exec i s = .next t) : RvsMove s.rvs t.rvs := by
  refine moves_of_ends (u := .rvs) (get := State.rvs) (fun _ _ h => h) (fun _ => .keep) (fun i s hu => ?_) h
  cases i with
  | rvsInit => exact ends_initialise rfl fun hadm k n => .init _ _
  | rvsProcess =>
    exact ends_perform (by decide) fun hadm k n => .process (hadm.initialised (by decide)) _ _ _ _ _ _
  | rvsClear => exact ends_pure (by decide) fun n hu => .clear hu
  | rvsSetMix => exact ends_clampSetter (by decide) rfl fun v n hu hv => .params hu (.mix hv)
  | rvsSetDecay =>
    exact ends_perform (by decide) fun hadm => .bind (yields_clampUnit _ (hadm.finite0 rfl)) fun v hv k n =>
      .decay (hadm.initialised (by decide)) hv _
  | rvsSetDiffusion => exact ends_clampSetter (by decide) rfl fun v n hu hv => .params hu (.diffusion hv)
  | rvsSetPredelay => exact ends_clampSetter (by decide) rfl fun v n hu hv => .params hu (.predelay hv)
  | rvsSetInputHighcut => exact ends_clampSetter (by decide) rfl fun v n hu hv => .params hu (.inhc hv)
  | rvsSetTankHighcut => exact ends_clampSetter (by decide) rfl fun v n hu hv => .params hu (.tankhc hv)
  | rvsSetTankModSpeed => exact ends_pure (by decide) fun n hu => .params hu (.spos _)
  | rvsSetTankModDepth => exact ends_pure (by decide) fun n hu => .params hu (.dpos _)
  | rvsSetTankModShape => exact ends_pure (by decide) fun n hu => .params hu (.shpos _)
  | _ => exact absurd hu (by decide)

end Sys2Proof.Machine
end

section
/-! What the moves of the units give: the lifecycle (60_exceptions.md R406), what `INIT` leaves
(70_reset_and_hazards.md R452, R453), where sample memory is written (20_memory.md R80, R92), and that every
delay line stays canonical (R89). -/

namespace Sys2Proof.Machine

/-- A property of a unit that holds after reset and that each of the unit's moves keeps, every step keeps. -/
theorem unit_step_keeps {α : Type} {get : State → α} {M : α → α → Prop} {P : α → Prop}
    (hget : ∀ s t, (∀ u, sameUnit u s t) → get s = get t) (hreset : P (get State.reset))
    (hexec : ∀ i s t, exec i s = .next t → M (get s) (get t)) (hmove : ∀ x y, M x y → P x → P y)
    {s t : State} (hs : P (get s)) (h : step s = .next t) : P (get t) :=
  step_keeps (P := fun s => P (get s)) (fun s t hst hps => hget s t hst ▸ hps) hreset
    (fun i s t hps hx => hmove _ _ (hexec i s t hx) hps) hs h

/-- A property that a command's own unit has after its rule, and that an untouched unit has, every command
gives. -/
theorem of_unit_ends {u : UnitId} {i : Instr} {s t : State} {P : State → Prop}
    (hsame : ∀ t, sameUnit u s t → P t) (h : i.unit = u → Ends i s P (exec i s))
    (hexec : exec i s = .next t) : P t := by
  by_cases hu : i.unit = u
  · rcases h hu t hexec with ⟨-, c, rfl⟩ | ⟨-, hp⟩
    · exact hsame _ (sameUnit_raise u s c (encode i))
    · exact hp
  · exact hsame t (unitsIndependent i s t u hexec (Ne.symm hu))

/-! The lifecycle. -/

theorem bq_init_mono {i : Instr} {s t : State} (h : exec i s = .next t) (hs : s.bq.init = true) :
    t.bq.init = true := by
  refine of_unit_ends (u := .bq) (P := fun t => t.bq.init = true) (fun t ht => ?_) (fun hu => ?_) h
  · rw [← show s.bq = t.bq from ht, hs]
  · cases i with
    | bqInit => exact ends_initialise rfl fun _ _ _ => rfl
    | bqProcess | bqClear | bqSetPeaking | bqSetLowshelf => exact ends_perform (by decide) fun _ _ _ => hs
    | _ => exact absurd hu (by decide)

theorem op_init_mono {i : Instr} {s t : State} (h : exec i s = .next t) (hs : s.op.init = true) :
    t.op.init = true := by
  refine of_unit_ends (u := .op) (P := fun t => t.op.init = true) (fun t ht => ?_) (fun hu => ?_) h
  · rw [← show s.op = t.op from ht, hs]
  · cases i with
    | opInit => exact ends_initialise rfl fun _ _ _ => rfl
    | opProcess | opClear | opSetLowpass | opSetHighpass => exact ends_perform (by decide) fun _ _ _ => hs
    | _ => exact absurd hu (by decide)

theorem LfoMove.init_mono {u u' : LfoUnit} (h : LfoMove u u') (hu : u.init = true) : u'.init = true := by
  cases h with
  | init => rfl
  | keep | process | clear | freq | amp | wave => exact hu

theorem DlyMove.init_mono {u u' : DlyUnit} (h : DlyMove u u') (hu : u.init = true) : u'.init = true := by
  cases h with
  | init => rfl
  | keep | process | clear | time | feedback => exact hu

theorem TrmMove.init_mono {w : Wave} {u u' : TrmUnit} (h : TrmMove w u u') (hu : u.init = true) :
    u'.init = true := by
  cases h with
  | init => rfl
  | keep | process | speed | depth => exact hu

theorem TrhMove.init_mono {u u' : TrhUnit} (h : TrhMove u u') (hu : u.init = true) : u'.init = true := by
  cases h with
  | init => rfl
  | keep | process | speed | depth => exact hu

theorem RvpMove.init_mono {u u' : RvpUnit} (h : RvpMove u u') (hu : u.init = true) : u'.init = true := by
  cases h with
  | init => rfl
  | keep | signal | params => exact hu

theorem RvhMove.init_mono {u u' : RvhUnit} (h : RvhMove u u') (hu : u.init = true) : u'.init = true := by
  cases h with
  | init => rfl
  | keep | process | clear | params | decay | predelay | tankhc | speed => exact hu

theorem RvsMove.init_mono {u u' : RvsUnit} (h : RvsMove u u') (hu : u.init = true) : u'.init = true := by
  cases h with
  | init => rfl
  | keep | process | clear | params | decay => exact hu

/-- No command takes a unit's `init` away (R406). -/
theorem unitInit_mono {i : Instr} {s t : State} (u : UnitId) (h : exec i s = .next t)
    (hs : unitInit u s = true) : unitInit u t = true := by
  cases u with
  | bq => exact bq_init_mono h hs
  | op => exact op_init_mono h hs
  | lfo => exact (lfoMove_exec h).init_mono hs
  | dly => exact (dlyMove_exec h).init_mono hs
  | trs => exact (trsMove_exec h).init_mono hs
  | trq => exact (trqMove_exec h).init_mono hs
  | trh => exact (trhMove_exec h).init_mono hs
  | rvp => exact (rvpMove_exec h).init_mono hs
  | rvh => exact (rvhMove_exec h).init_mono hs
  | rvs => exact (rvsMove_exec h).init_mono hs

/-- A command that initialises a unit is the unit's `INIT` (R406). -/
theorem init_of_becomes {i : Instr} {s t : State} {u : UnitId} (h : exec i s = .next t)
    (hs : unitInit u s = false) (ht : unitInit u t = true) : i.unit = u ∧ i.op = 0x00#8 := by
  have hne : unitInit u s ≠ unitInit u t := by rw [hs, ht]; decide
  have hu : i.unit = u := by
    by_contra hu
    exact hne (unitInit_of_sameUnit (unitsIndependent i s t u h (Ne.symm hu)))
  refine ⟨hu, ?_⟩
  rcases ends_framed i s t h with ⟨-, c, rfl⟩ | ⟨hadm, -⟩
  · exact absurd (unitInit_raise u s c _).symm hne
  · by_contra hop
    have hinit := hadm.initialised hop
    rw [hu, hs] at hinit
    exact absurd hinit (by decide)

/-- Settles O13: a step that is no block reset changes a unit's `init` by a command alone, and a command only
as R406 says. -/
theorem initLifecycle : Obligations.InitLifecycle := by
  unfold Obligations.InitLifecycle
  intro s t u h hreset
  rcases step_inv h with ⟨i, rest, hp, hx⟩ | ⟨hr, -⟩ | hsame
  · have hpend : unitInit u { s with pending := rest } = unitInit u s := by cases u <;> rfl
    refine ⟨fun hs => unitInit_mono u hx (hpend.trans hs), fun hs ht => ?_⟩
    exact ⟨i, rest, hp, init_of_becomes hx (hpend.trans hs) ht⟩
  · exact absurd hr hreset
  · have heq := unitInit_of_sameUnit (hsame u)
    refine ⟨fun hs => heq ▸ hs, fun hs ht => ?_⟩
    rw [heq, ht] at hs
    exact absurd hs (by decide)

/-! `INIT`. -/

theorem admits_init {i : Instr} {s : State} (hop : i.op = 0x00#8) (hfin : F32.isFinite s.arg0 = true)
    (hlt : Config.cfg.lt F32.zero s.f0 = true) : Admits i s :=
  ⟨⟨.inl hop, by rwa [operandsFinite_init hop]⟩, fun _ => hlt⟩

/-- The run of an `INIT` with a finite rate above zero. -/
theorem initialise_run {i : Instr} {s : State} {p : F32 → Dp State} (hop : i.op = 0x00#8)
    (hfin : F32.isFinite s.arg0 = true) (hlt : Config.cfg.lt F32.zero s.f0 = true) :
    checked i s (initialise i s p) =
      .next { (p s.f0 s.draws).1 with draws := (p s.f0 s.draws).2 } := by
  rw [checked_pass (.inl hop) (by rwa [operandsFinite_init hop])]
  rcases initialise_cases i s p with ⟨-, heq⟩ | ⟨hlt', -⟩
  · rw [heq, perform_eq]
  · exact absurd (hlt'.symm.trans hlt) (by decide)

theorem exec_init_run {i : Instr} {s : State} {p : F32 → Dp State}
    (hx : exec i s = checked i s (initialise i s p)) (hop : i.op = 0x00#8)
    (hfin : F32.isFinite s.arg0 = true) (hlt : Config.cfg.lt F32.zero s.f0 = true) :
    exec i s = .next { (p s.f0 s.draws).1 with draws := (p s.f0 s.draws).2 } :=
  hx.trans (initialise_run hop hfin hlt)

/-- `INIT` leaves its unit initialised at the rate of its operand (R452). -/
theorem ends_init_unit {i : Instr} (hop : i.op = 0x00#8) (s : State) :
    Ends i s (fun t => unitInit i.unit t = true ∧ unitFs i.unit t = s.f0) (exec i s) := by
  cases i with
  | bqInit | opInit | lfoInit | dlyInit | trsInit | trqInit | trhInit | rvpInit | rvhInit | rvsInit =>
    exact ends_initialise rfl fun _ _ _ => ⟨rfl, rfl⟩
  | _ => exact absurd hop (by decide)

/-- Settles O18: the `INIT` is admitted, so its rule runs, within the frame of every rule. -/
theorem initCompletes : Obligations.InitCompletes := by
  unfold Obligations.InitCompletes
  intro i s hop hfin hlt
  have hadm := admits_init hop hfin hlt
  obtain ⟨r, hx, hr⟩ := exec_checked i s
  obtain ⟨p, rfl⟩ := hr hop
  have hrun := exec_init_run hx hop hfin hlt
  obtain ⟨hinit, hfs⟩ := ((ends_init_unit hop s _ hrun).resolve_left fun h => h.1 hadm).2
  have hframe := ((ends_framed i s _ hrun).resolve_left fun h => h.1 hadm).2
  have hres := hframe.results (by
    unfold producesResult
    rw [hop]
    decide)
  exact ⟨_, hrun, hinit, hfs, hframe.errors, hframe.inputs, hres.1, hres.2, hframe.units⟩

/-- Settles O19: each unit's initial state is a computation on the rate alone. -/
theorem initDiscardsState : Obligations.InitDiscardsState := by
  unfold Obligations.InitDiscardsState
  intro i s s' hop hfin hlt harg hdraws
  have hfin' : F32.isFinite s'.arg0 = true := harg ▸ hfin
  have hf : s.f0 = s'.f0 := by rw [State.f0, State.f0, harg]
  have hlt' : Config.cfg.lt F32.zero s'.f0 = true := hf ▸ hlt
  cases i with
  | bqInit | opInit | lfoInit | dlyInit | trsInit | trqInit | trhInit | rvpInit | rvhInit | rvsInit =>
    refine ⟨_, _, exec_init_run rfl rfl hfin hlt, exec_init_run rfl rfl hfin' hlt', ?_, ?_⟩
    · rw [hf, hdraws]
      rfl
    · rw [hf, hdraws]
      rfl
  | _ => exact absurd hop (by decide)

/-! Sample memory. -/

/-- A store leaves every other index as it was, in any memory. -/
theorem Memory.read_write_ne (m : Memory) {j k : Nat} (v : F32) (h : k ≠ j) :
    Memory.read (Memory.write m j v) k = Memory.read m k := by
  induction m with
  | nil =>
    unfold Memory.write
    split
    · rfl
    · exact if_neg h.symm
  | cons p m ih =>
    obtain ⟨i, x⟩ := p
    unfold Memory.write
    split
    · split
      · rfl
      · rw [Memory.read, if_neg h.symm]
    · split
      · subst_vars
        split
        · rw [Memory.read, if_neg h.symm]
        · rw [Memory.read, Memory.read, if_neg h.symm, if_neg h.symm]
      · rw [Memory.read, Memory.read, ih]

/-- The samples of a line after a command that stores at its write index where `p` holds, and nowhere
else. -/
def SamplesKept (p : Prop) (l l' : Line) : Prop :=
  ∀ j, (p → j ≠ l.w) → Memory.read l'.buf j = Memory.read l.buf j

theorem SamplesKept.refl (p : Prop) (l : Line) : SamplesKept p l l := fun _ _ => rfl

theorem SamplesKept.push {p : Prop} (hp : p) (n : Nat) (l : Line) (v : F32) :
    SamplesKept p l (l.push n v) := fun _ hj => Memory.read_write_ne l.buf v (hj hp)

/-- The lines of DLY, each with its samples kept but for a store at its write index where `p` holds. -/
structure DlySamplesKept (p : Prop) (u u' : DlyUnit) : Prop where
  lineL : SamplesKept p u.lineL u'.lineL
  lineR : SamplesKept p u.lineR u'.lineR

/-- As `DlySamplesKept`, of RVH. -/
structure RvhSamplesKept (p : Prop) (u u' : RvhUnit) : Prop where
  pre : SamplesKept p u.pre u'.pre
  ap0 : SamplesKept p u.ap0 u'.ap0
  ap1 : SamplesKept p u.ap1 u'.ap1
  ln : ∀ k, SamplesKept p (u.ln.get k) (u'.ln.get k)

/-- As `DlySamplesKept`, of RVS. -/
structure RvsSamplesKept (p : Prop) (u u' : RvsUnit) : Prop where
  wg : SamplesKept p u.wg u'.wg
  da0 : SamplesKept p u.da0 u'.da0
  da1 : SamplesKept p u.da1 u'.da1
  da2 : SamplesKept p u.da2 u'.da2
  da3 : SamplesKept p u.da3 u'.da3

theorem DlySamplesKept.refl (p : Prop) (u : DlyUnit) : DlySamplesKept p u u := ⟨.refl _ _, .refl _ _⟩

theorem RvhSamplesKept.refl (p : Prop) (u : RvhUnit) : RvhSamplesKept p u u :=
  ⟨.refl _ _, .refl _ _, .refl _ _, fun _ => .refl _ _⟩

theorem RvsSamplesKept.refl (p : Prop) (u : RvsUnit) : RvsSamplesKept p u u :=
  ⟨.refl _ _, .refl _ _, .refl _ _, .refl _ _, .refl _ _⟩

theorem dlySamplesKept_exec {i : Instr} {s t : State} (h : exec i s = .next t) (hi : i ≠ .dlyInit)
    (hc : i ≠ .dlyClear) : DlySamplesKept (i = .dlyProcess) s.dly t.dly := by
  refine of_unit_ends (u := .dly) (P := fun t => DlySamplesKept (i = .dlyProcess) s.dly t.dly)
    (fun t ht => ?_) (fun hu => ?_) h
  · rw [← show s.dly = t.dly from ht]
    exact .refl _ _
  · cases i with
    | dlyInit => exact absurd rfl hi
    | dlyClear => exact absurd rfl hc
    | dlyProcess =>
      refine ends_performLine (by decide) fun _ k a ha n => ?_
      obtain ⟨m, vL, vR, hu⟩ := yields_dlyStep Config.cfg s.dly s.f0 s.f1 k a ha
      show DlySamplesKept _ s.dly a.1
      rw [hu]
      exact ⟨.push rfl _ _ _, .push rfl _ _ _⟩
    | dlySetDelayTime | dlySetFeedback =>
      exact ends_perform (by decide) fun _ _ _ => ⟨.refl _ _, .refl _ _⟩
    | _ => exact absurd hu (by decide)

theorem rvhSamplesKept_exec {i : Instr} {s t : State} (h : exec i s = .next t) (hi : i ≠ .rvhInit)
    (hc : i ≠ .rvhClear) : RvhSamplesKept (i = .rvhProcess) s.rvh t.rvh := by
  refine of_unit_ends (u := .rvh) (P := fun t => RvhSamplesKept (i = .rvhProcess) s.rvh t.rvh)
    (fun t ht => ?_) (fun hu => ?_) h
  · rw [← show s.rvh = t.rvh from ht]
    exact .refl _ _
  · cases i with
    | rvhInit => exact absurd rfl hi
    | rvhClear => exact absurd rfl hc
    | rvhProcess =>
      refine ends_performLine (by decide) fun _ k a ha n => ?_
      obtain ⟨p, a0, a1, ln, z, m, hln, hu⟩ := yields_rvhStep Config.cfg s.rvh s.f0 s.f1 k a ha
      show RvhSamplesKept _ s.rvh a.1
      rw [hu]
      refine ⟨.push rfl _ _ _, .push rfl _ _ _, .push rfl _ _ _, fun k => ?_⟩
      obtain ⟨v, hv⟩ := hln k
      dsimp only
      rw [hv]
      exact .push rfl _ _ _
    | rvhSetMix | rvhSetDecay | rvhSetDiffusion | rvhSetPredelay | rvhSetInputHighcut
    | rvhSetTankHighcut | rvhSetTankModSpeed | rvhSetTankModDepth | rvhSetTankModShape =>
      exact ends_perform (by decide) fun _ _ _ =>
        ⟨.refl _ _, .refl _ _, .refl _ _, fun _ => .refl _ _⟩
    | _ => exact absurd hu (by decide)

theorem rvsSamplesKept_exec {i : Instr} {s t : State} (h : exec i s = .next t) (hi : i ≠ .rvsInit)
    (hc : i ≠ .rvsClear) : RvsSamplesKept (i = .rvsProcess) s.rvs t.rvs := by
  refine of_unit_ends (u := .rvs) (P := fun t => RvsSamplesKept (i = .rvsProcess) s.rvs t.rvs)
    (fun t ht => ?_) (fun hu => ?_) h
  · rw [← show s.rvs = t.rvs from ht]
    exact .refl _ _
  · cases i with
    | rvsInit => exact absurd rfl hi
    | rvsClear => exact absurd rfl hc
    | rvsProcess =>
      refine ends_perform (by decide) fun _ => .bind (yields_rvsStep Config.cfg s.rvs s.f0 s.f1) ?_
      rintro ⟨_, l, r⟩ ⟨b, d0, d1, d2, d3, z, rfl⟩
      exact .pure fun _ =>
        ⟨.push rfl _ _ _, .push rfl _ _ _, .push rfl _ _ _, .push rfl _ _ _, .push rfl _ _ _⟩
    | rvsSetMix | rvsSetDecay | rvsSetDiffusion | rvsSetPredelay | rvsSetInputHighcut
    | rvsSetTankHighcut | rvsSetTankModSpeed | rvsSetTankModDepth | rvsSetTankModShape =>
      exact ends_perform (by decide) fun _ _ _ =>
        ⟨.refl _ _, .refl _ _, .refl _ _, .refl _ _, .refl _ _⟩
    | _ => exact absurd hu (by decide)

/-- Settles O17: a command's own unit stores by `PROCESS` alone, at the write index; every other command keeps
the lines. -/
theorem sampleMemoryFrame : Obligations.SampleMemoryFrame := by
  unfold Obligations.SampleMemoryFrame
  refine fun i s t h => ⟨fun j hi hj => (dlySamplesKept_exec h hi.1 hi.2).lineL j hj,
    fun j hi hj => (dlySamplesKept_exec h hi.1 hi.2).lineR j hj, fun j hi => ?_, fun j hi => ?_⟩
  · have hk := rvhSamplesKept_exec h hi.1 hi.2
    exact ⟨hk.pre j, hk.ap0 j, hk.ap1 j, fun k => hk.ln k j⟩
  · have hk := rvsSamplesKept_exec h hi.1 hi.2
    exact ⟨hk.wg j, hk.da0 j, hk.da1 j, hk.da2 j, hk.da3 j⟩

/-! Canonical lines. -/

/-- The two lines of DLY are canonical, with one index (R52, R89). -/
structure DlyLines (u : DlyUnit) : Prop where
  lineL : u.lineL.wf (dlyLen Config.cfg) = true
  lineR : u.lineR.wf (dlyLen Config.cfg) = true
  shared : u.lineL.w = u.lineR.w

/-- The eleven lines of RVH are canonical (R57, R89). -/
structure RvhLines (u : RvhUnit) : Prop where
  pre : u.pre.wf (Config.cfg.rvhPredelayMax + 1) = true
  ap0 : u.ap0.wf (Config.cfg.rvhApLen 0 + 1) = true
  ap1 : u.ap1.wf (Config.cfg.rvhApLen 1 + 1) = true
  ln : ∀ k, (u.ln.get k).wf (hallLen Config.cfg k) = true

/-- The five lines of RVS are canonical (R58, R89). -/
structure RvsLines (u : RvsUnit) : Prop where
  wg : u.wg.wf (Config.cfg.rvsLen + 1) = true
  da0 : u.da0.wf (Config.cfg.rvsApLen 0 + 1) = true
  da1 : u.da1.wf (Config.cfg.rvsApLen 1 + 1) = true
  da2 : u.da2.wf (Config.cfg.rvsApLen 2 + 1) = true
  da3 : u.da3.wf (Config.cfg.rvsApLen 3 + 1) = true

theorem linesCanonical_iff (s : State) :
    LinesCanonical s ↔ DlyLines s.dly ∧ RvhLines s.rvh ∧ RvsLines s.rvs :=
  ⟨fun h => ⟨⟨h.lineL, h.lineR, h.shared⟩,
      ⟨h.pre, h.ap0, h.ap1, h.ln⟩, ⟨h.wg, h.da0, h.da1, h.da2, h.da3⟩⟩,
    fun ⟨hd, hh, hs⟩ => ⟨hd.lineL, hd.lineR, hd.shared, hh.pre, hh.ap0, hh.ap1, hh.ln, hs.wg, hs.da0,
      hs.da1, hs.da2, hs.da3⟩⟩

theorem DlyLines.zero {u : DlyUnit} (hL : u.lineL = Line.zero) (hR : u.lineR = Line.zero) : DlyLines u where
  lineL := hL ▸ Line.zero_wf (Nat.succ_pos _)
  lineR := hR ▸ Line.zero_wf (Nat.succ_pos _)
  shared := by rw [hL, hR]

theorem RvhLines.zero {u : RvhUnit} (hp : u.pre = Line.zero) (h0 : u.ap0 = Line.zero)
    (h1 : u.ap1 = Line.zero) (hln : u.ln = Eight.all Line.zero) : RvhLines u where
  pre := hp ▸ Line.zero_wf (Nat.succ_pos _)
  ap0 := h0 ▸ Line.zero_wf (Nat.succ_pos _)
  ap1 := h1 ▸ Line.zero_wf (Nat.succ_pos _)
  ln := fun k => by
    rw [hln, Eight.get_all]
    exact Line.zero_wf (Nat.succ_pos _)

theorem RvsLines.zero {u : RvsUnit} (hw : u.wg = Line.zero) (h0 : u.da0 = Line.zero)
    (h1 : u.da1 = Line.zero) (h2 : u.da2 = Line.zero) (h3 : u.da3 = Line.zero) : RvsLines u where
  wg := hw ▸ Line.zero_wf (Nat.succ_pos _)
  da0 := h0 ▸ Line.zero_wf (Nat.succ_pos _)
  da1 := h1 ▸ Line.zero_wf (Nat.succ_pos _)
  da2 := h2 ▸ Line.zero_wf (Nat.succ_pos _)
  da3 := h3 ▸ Line.zero_wf (Nat.succ_pos _)

theorem DlyMove.lines {u u' : DlyUnit} (h : DlyMove u u') (hu : DlyLines u) : DlyLines u' := by
  cases h with
  | keep | time | feedback => exact ⟨hu.lineL, hu.lineR, hu.shared⟩
  | init | clear => exact .zero rfl rfl
  | process =>
    refine ⟨Line.push_wf hu.lineL _, Line.push_wf hu.lineR _, ?_⟩
    rw [Line.push_w, Line.push_w, hu.shared]

theorem RvhMove.lines {u u' : RvhUnit} (h : RvhMove u u') (hu : RvhLines u) : RvhLines u' := by
  cases h with
  | keep | params | decay | predelay | tankhc | speed => exact ⟨hu.pre, hu.ap0, hu.ap1, hu.ln⟩
  | init | clear => exact .zero rfl rfl rfl rfl
  | process _ _ _ _ _ _ hln =>
    refine ⟨Line.push_wf hu.pre _, Line.push_wf hu.ap0 _, Line.push_wf hu.ap1 _, fun k => ?_⟩
    obtain ⟨v, hv⟩ := hln k
    dsimp only
    rw [hv]
    exact Line.push_wf (hu.ln k) v

theorem RvsMove.lines {u u' : RvsUnit} (h : RvsMove u u') (hu : RvsLines u) : RvsLines u' := by
  cases h with
  | keep | params | decay => exact ⟨hu.wg, hu.da0, hu.da1, hu.da2, hu.da3⟩
  | init | clear => exact .zero rfl rfl rfl rfl rfl
  | process =>
    exact ⟨Line.push_wf hu.wg _, Line.push_wf hu.da0 _, Line.push_wf hu.da1 _, Line.push_wf hu.da2 _,
      Line.push_wf hu.da3 _⟩

theorem linesCanonical_reset : LinesCanonical State.reset :=
  (linesCanonical_iff _).2 ⟨.zero rfl rfl, .zero rfl rfl rfl rfl, .zero rfl rfl rfl rfl rfl⟩

/-- Settles O55: each unit's moves keep its lines canonical, a push by `Line.push_wf`. -/
theorem linesCanonicalKept : Obligations.LinesCanonicalKept := by
  unfold Obligations.LinesCanonicalKept
  intro s t hs h
  obtain ⟨hd, hh, hr⟩ := (linesCanonical_iff s).1 hs
  obtain ⟨hd0, hh0, hr0⟩ := (linesCanonical_iff _).1 linesCanonical_reset
  refine (linesCanonical_iff t).2 ⟨?_, ?_, ?_⟩
  · exact unit_step_keeps (get := State.dly) (fun _ _ h => h .dly) hd0 (fun _ _ _ => dlyMove_exec)
      (fun _ _ hm => hm.lines) hd h
  · exact unit_step_keeps (get := State.rvh) (fun _ _ h => h .rvh) hh0 (fun _ _ _ => rvhMove_exec)
      (fun _ _ hm => hm.lines) hh h
  · exact unit_step_keeps (get := State.rvs) (fun _ _ h => h .rvs) hr0 (fun _ _ _ => rvsMove_exec)
      (fun _ _ hm => hm.lines) hr h

end Sys2Proof.Machine
end

section
/-! The next state of each `INIT`, `PROCESS` and `CLEAR` that is a run of its rule, operation by operation
(40_filters.md to 46_reverb_spring.md). -/

namespace Sys2Proof.Machine

/-- The run of a command whose checks pass. -/
theorem exec_run {i : Instr} {s : State} {p : Dp State} (hx : exec i s = checked i s (perform s p))
    (hinit : unitInit i.unit s = true) (hfin : operandsFinite i s = true) :
    exec i s = .next { (p s.draws).1 with draws := (p s.draws).2 } :=
  hx.trans (checked_pass (.inr hinit) hfin)

/-- As `exec_run`, for a rule that computes nothing. -/
theorem exec_run_pure {i : Instr} {s t : State} (hx : exec i s = checked i s (perform s (pure t)))
    (hinit : unitInit i.unit s = true) (hfin : operandsFinite i s = true) :
    exec i s = .next { t with draws := s.draws } :=
  exec_run hx hinit hfin

/-- As `exec_run`, for a rule with line reads that gives `a`. -/
theorem exec_run_line {α : Type} {i : Instr} {s : State} {q : Dp (Option α)} {f : α → State} {a : α}
    {n : Nat} (hx : exec i s = checked i s (performLine s do let r ← q; pure (r.map f)))
    (hinit : unitInit i.unit s = true) (hfin : operandsFinite i s = true)
    (hq : q s.draws = (some a, n)) : exec i s = .next { f a with draws := n } := by
  rw [hx, checked_pass (.inr hinit) hfin, performLine, Dp.run_bind_of hq]
  rfl

/-- The run of a rule whose first part gives `a`. -/
theorem exec_run_bind {α : Type} {i : Instr} {s t : State} {q : Dp α} {f : α → Dp State} {a : α} {n : Nat}
    (hx : exec i s = checked i s (perform s (q >>= f))) (hinit : unitInit i.unit s = true)
    (hfin : operandsFinite i s = true) (hq : q s.draws = (a, n)) (hf : f a = pure t) :
    exec i s = .next { t with draws := n } := by
  rw [exec_run hx hinit hfin, Dp.run_bind_of hq, hf]
  rfl

/-- A run as its result and its count of draws, to hand to the `…_run` lemmas. -/
theorem run_pair {α : Type} (r : α × Nat) : r = (r.1, r.2) := rfl

theorem operandsFinite_zero {i : Instr} (hn : f32Operands i = 0) (s : State) :
    operandsFinite i s = true := by
  simp only [operandsFinite, hn]

theorem operandsFinite_one {i : Instr} {s : State} (hn : f32Operands i = 1)
    (h0 : F32.isFinite s.arg0 = true) : operandsFinite i s = true := by
  simp only [operandsFinite, hn, h0]

theorem operandsFinite_two {i : Instr} {s : State} (hn : f32Operands i = 2)
    (h0 : F32.isFinite s.arg0 = true) (h1 : F32.isFinite s.arg1 = true) :
    operandsFinite i s = true := by
  simp only [operandsFinite, hn, h0, h1, Bool.and_self]

theorem operandsFinite_three {i : Instr} {s : State} (hn : f32Operands i = 3)
    (h0 : F32.isFinite s.arg0 = true) (h1 : F32.isFinite s.arg1 = true)
    (h2 : F32.isFinite s.arg2 = true) : operandsFinite i s = true := by
  simp only [operandsFinite, hn, h0, h1, h2, Bool.and_self]

/-- Settles O20: the three rules compute nothing but the stored rate. -/
theorem initFiltersLfo : Obligations.InitFiltersLfo := by
  unfold Obligations.InitFiltersLfo
  intro s hfin hlt
  refine ⟨?_, ?_, ?_⟩
  · exact (exec_init_run rfl rfl hfin hlt).trans rfl
  · exact (exec_init_run rfl rfl hfin hlt).trans rfl
  · exact (exec_init_run rfl rfl hfin hlt).trans rfl

/-! `PROCESS`. -/

@[inherit_doc run_pair]
theorem run_pair₂ {α β : Type} (r : (α × β) × Nat) : r = ((r.1.1, r.1.2), r.2) := rfl

theorem opStep_run_lp {c : Cfg} {u : OpUnit} {x y : F32} {n n1 : Nat} (hm : u.mode = .lp)
    (h : lp1 c u.y u.a x n = (y, n1)) : opStep c u x n = ((y, y), n1) := by
  unfold opStep
  rw [hm]
  exact (Dp.run_bind_of h).trans rfl

theorem opStep_run_hp {c : Cfg} {u : OpUnit} {x : F32} {r : F32 × F32} {n n1 : Nat} (hm : u.mode = .hp)
    (h : hp1 c u.y u.a x n = (r, n1)) : opStep c u x n = (r, n1) := by
  unfold opStep
  rw [hm]
  exact h

/-- Settles O24: both rules run as written, the one-pole filter by its mode. -/
theorem filterProcess : Obligations.FilterProcess := by
  unfold Obligations.FilterProcess
  refine ⟨fun s hinit hfin => ?bq, fun s hinit hfin => ?op⟩
  case bq =>
    intro c p0 p1 a1 p2 a2 p3 a3 p4 y
    exact exec_run_bind (i := .bqProcess) rfl hinit (operandsFinite_one rfl hfin)
      (bq2_run (run_pair p0) (run_pair p1) (run_pair a1) (run_pair p2) (run_pair a2) (run_pair p3)
        (run_pair a3) (run_pair p4) (run_pair y)) rfl
  case op =>
    intro c d p y
    have hlp := lp1_run (run_pair d) (run_pair p) (run_pair y)
    refine ⟨fun hm => ?_, fun hm => ?_⟩
    · exact exec_run_bind (i := .opProcess) rfl hinit (operandsFinite_one rfl hfin)
        (opStep_run_lp hm hlp) rfl
    · exact exec_run_bind (i := .opProcess) rfl hinit (operandsFinite_one rfl hfin)
        (opStep_run_hp hm (hp1_run hlp (run_pair _))) rfl

/-- R184: one step of an oscillator, with both flags. -/
theorem oscStep_eq (c : Cfg) (o : Osc) (k : Nat) :
    let sh := shape c o.wave o.phase k
    let out := c.mul o.amp sh.1 sh.2
    let t := c.add o.phase o.inc out.2
    let eorh := c.lt o.phase F32.half && c.le F32.half t.1
    let p := c.sub t.1 F32.one t.2
    oscStep c o k =
      if c.le F32.one t.1 then
        ((out.1, { o with phase := p.1, eoc := true, eorh := eorh }), p.2)
      else ((out.1, { o with phase := t.1, eoc := false, eorh := eorh }), t.2) := by
  intro sh out t eorh p
  split
  · rename_i h
    exact oscStep_run (run_pair sh) (run_pair out) (advance_run_wrap (run_pair t) h (run_pair p))
  · rename_i h
    exact oscStep_run (run_pair sh) (run_pair out) (advance_run_stay (run_pair t) (Bool.eq_false_iff.2 h))

/-- R186: bit 0 is EOC and bit 1 EORH. -/
theorem flagWord_eq (o : Osc) :
    flagWord o = (if o.eoc then 1#32 else 0#32) + (if o.eorh then 2#32 else 0#32) := by
  unfold flagWord
  cases o.eoc <;> cases o.eorh <;> rfl

/-- Settles O25: the shapes and the step are their runs; `LFO.PROCESS` is one step, whose flags are the
comparison with one and the crossing of one half. -/
theorem lfoProcess : Obligations.LfoProcess := by
  unfold Obligations.LfoProcess
  refine ⟨fun c φ k => ⟨rfl, rfl, rfl⟩, oscStep_eq, fun s hinit => ?_⟩
  intro c o sh out t eorh p eoc
  have hstep := oscStep_eq c o s.draws
  refine (exec_run (i := .lfoProcess) rfl hinit (operandsFinite_zero rfl s)).trans ?_
  show Host.Outcome.next
    { (({ s with lfo := { s.lfo with o := (oscStep c o s.draws).1.2 } } : State).respond
        (oscStep c o s.draws).1.1 (flagWord (oscStep c o s.draws).1.2)) with
      draws := (oscStep c o s.draws).2 } = _
  rw [hstep]
  cases heoc : eoc with
  | true =>
    rw [if_pos heoc, flagWord_eq]
    rfl
  | false =>
    rw [if_neg (Bool.eq_false_iff.1 heoc), flagWord_eq]
    rfl

/-- Settles O26: with the read delay in range, the step is its run. -/
theorem dlyProcess : Obligations.DlyProcess := by
  unfold Obligations.DlyProcess
  intro s hinit h0 h1 c u d p dc D rL rR qL vL qR vR hread
  have hdelay := dlyDelay_run (u := u) (run_pair d) (run_pair p) (run_pair dc) (run_pair D)
  exact exec_run_line (i := .dlyProcess) rfl hinit (operandsFinite_two rfl h0 h1)
    (dlyStep_run hdelay hread (run_pair rL) (run_pair rR) (run_pair qL) (run_pair vL) (run_pair qR)
      (run_pair vR))

/-- Settles O27: `PROCESS` runs the step; `GET_LAST_LFO` computes nothing. -/
theorem tremoloProcess : Obligations.TremoloProcess := by
  unfold Obligations.TremoloProcess
  refine ⟨fun s hinit => exec_run_pure (i := .trsGetLastLfo) rfl hinit (operandsFinite_zero rfl s),
    fun s hinit => exec_run_pure (i := .trqGetLastLfo) rfl hinit (operandsFinite_zero rfl s),
    fun s hinit h0 h1 => ?_, fun s hinit h0 h1 => ?_⟩
  · intro c lfo t b g l r
    exact exec_run_bind (i := .trsProcess) rfl hinit (operandsFinite_two rfl h0 h1)
      (trmStep_run (run_pair lfo) (run_pair t) (run_pair b) (run_pair g) (run_pair l) (run_pair r)) rfl
  · intro c lfo t b g l r
    exact exec_run_bind (i := .trqProcess) rfl hinit (operandsFinite_two rfl h0 h1)
      (trmStep_run (run_pair lfo) (run_pair t) (run_pair b) (run_pair g) (run_pair l) (run_pair r)) rfl

/-- Settles O28: each channel is its run. -/
theorem trhProcess : Obligations.TrhProcess := by
  unfold Obligations.TrhProcess
  refine ⟨fun s hinit => ?last, fun s hinit h0 h1 => ?process⟩
  case last => exact exec_run_pure (i := .trhGetLastLfo) rfl hinit (operandsFinite_zero rfl s)
  intro c k channel lfo l r
  have hch (lfo : F32) (ch : TrhChan) (x : F32) (n : Nat) :
      trhChannel c k lfo ch x n = channel lfo ch x n := by
    unfold channel
    extract_lets lo hi gp gm a b m e1 e2 e3 e4 y
    have heq := trhEq_run (ch := { ch with lo := lo.1, hi := hi.1.2 }) (run_pair₂ e1) (run_pair e2)
      (run_pair₂ e3) (run_pair₂ e4) (run_pair₂ y)
    exact trhChannel_run (run_pair lo) (run_pair₂ hi) (run_pair gp) (run_pair gm) (run_pair a)
      (run_pair b) (run_pair m) heq
  have hl := (hch lfo.1.1 s.trh.chL s.f0 lfo.2).trans (run_pair₂ l)
  have hr := (hch lfo.1.1 s.trh.chR s.f1 l.2).trans (run_pair₂ r)
  clear_value r l
  exact exec_run_bind (i := .trhProcess) rfl hinit (operandsFinite_two rfl h0 h1)
    (trhStep_run (run_pair₂ lfo) hl hr) rfl

/-- Settles O29: one call of `PLATE.step`, and the mix law for each channel. -/
theorem rvpProcess : Obligations.RvpProcess := by
  unfold Obligations.RvpProcess
  intro s hinit h0 h1 c w l r
  exact (exec_run (i := .rvpProcess) rfl hinit (operandsFinite_two rfl h0 h1)).trans rfl

/-- Settles O30: with every read in range, the step is its run. -/
theorem rvhProcess : Obligations.RvhProcess := by
  unfold Obligations.RvhProcess
  intro s hinit h0 h1 c u len sum x p a v tri ds yf f m ln y tap wetL wetR outL outR hpd hread
  have hreadable : hallReadable c u.pd ds.1 = true := by
    rw [hallReadable, Bool.and_eq_true, decide_eq_true_eq, List.all_eq_true]
    exact ⟨hpd, fun k _ => hread k⟩
  have hwetL : hallTap c (y 0) (y 2) (y 4) (y 6) ln.2 = (wetL.1, wetL.2) :=
    hallTap_run (run_pair _) (run_pair _) (run_pair _) (run_pair _)
  have hwetR : hallTap c (y 1) (y 3) (y 5) (y 7) wetL.2 = (wetR.1, wetR.2) :=
    hallTap_run (run_pair _) (run_pair _) (run_pair _) (run_pair _)
  have hnet := hallNetwork_run (u := u) (run_pair yf) (run_pair m) (run_pair ln) hwetL hwetR
  exact exec_run_line (i := .rvhProcess) rfl hinit (operandsFinite_two rfl h0 h1)
    (rvhStep_run (monoInput_run (run_pair sum) (run_pair x)) (run_pair a) (run_pair v)
      (hallDelays_run (run_pair tri) (run_pair ds)) hreadable hnet (run_pair outL) (run_pair outR))

/-- Settles O31: the step is its run. -/
theorem rvsProcess : Obligations.RvsProcess := by
  unfold Obligations.RvsProcess
  intro s hinit h0 h1 c u sum x e v0 v1 v2 v y zf r b a1 s1 a2 s2 wet outL outR
  have hwet := springWet_run (y := y) (run_pair a1) (run_pair s1) (run_pair a2) (run_pair s2) (run_pair wet)
  exact exec_run_bind (i := .rvsProcess) rfl hinit (operandsFinite_two rfl h0 h1)
    (rvsStep_run (monoInput_run (run_pair sum) (run_pair x)) (run_pair e) (run_pair v0) (run_pair v1)
      (run_pair v2) (run_pair v) (run_pair zf) (run_pair r) (run_pair b) hwet (run_pair outL)
      (run_pair outR)) rfl

/-! `CLEAR`. -/

/-- Settles O32: the seven rules compute nothing. -/
theorem clearResults : Obligations.ClearResults := by
  unfold Obligations.ClearResults
  intro s
  exact ⟨fun h => exec_run_pure (i := .bqClear) rfl h (operandsFinite_zero rfl s),
    fun h => exec_run_pure (i := .opClear) rfl h (operandsFinite_zero rfl s),
    fun h => exec_run_pure (i := .lfoClear) rfl h (operandsFinite_zero rfl s),
    fun h => exec_run_pure (i := .dlyClear) rfl h (operandsFinite_zero rfl s),
    fun h => exec_run_pure (i := .rvpClear) rfl h (operandsFinite_zero rfl s),
    fun h => exec_run_pure (i := .rvhClear) rfl h (operandsFinite_zero rfl s),
    fun h => exec_run_pure (i := .rvsClear) rfl h (operandsFinite_zero rfl s)⟩

/-- Settles O33: each `CLEAR` stores constants, and `PLATE.clear` is idempotent (R307). -/
theorem clearIdempotent : Obligations.ClearIdempotent := by
  unfold Obligations.ClearIdempotent
  intro i s t hop hinit h
  cases i with
  | bqClear | opClear | lfoClear | dlyClear | rvhClear | rvsClear =>
    cases (exec_run_pure rfl hinit (operandsFinite_zero rfl s)).symm.trans h
    exact exec_run_pure rfl hinit (operandsFinite_zero rfl _)
  | rvpClear =>
    cases (exec_run_pure rfl hinit (operandsFinite_zero rfl s)).symm.trans h
    have hagain := exec_run_pure (i := .rvpClear)
      (s := { s with rvp := { s.rvp with sigma := Config.cfg.plate.clear s.rvp.sigma } }) rfl hinit
      (operandsFinite_zero rfl _)
    rw [Config.cfg.plate.clear_idem] at hagain
    exact hagain
  | _ => exact absurd hop (by decide)

/-! The designs. -/

/-- The peaking design from its prelude and its fourteen operations (R145). -/
theorem peakDesign_run {c : Cfg} {fc q gdb fs A cw sw alpha p0 b0 b1 p2 b2 r0 a0 a1 r2 a2 : F32}
    {k : BqCoef} {n m m0 m1 m2 m3 m4 m5 m6 m7 m8 m9 m10 : Nat}
    (hpre : bqPre c fc q gdb fs n = ((A, cw, sw, alpha), m))
    (h0 : c.mul alpha A m = (p0, m0)) (h1 : c.add F32.one p0 m0 = (b0, m1))
    (h2 : c.mul F32.negTwo cw m1 = (b1, m2)) (h3 : c.mul alpha A m2 = (p2, m3))
    (h4 : c.sub F32.one p2 m3 = (b2, m4)) (h5 : c.div alpha A m4 = (r0, m5))
    (h6 : c.add F32.one r0 m5 = (a0, m6)) (h7 : c.mul F32.negTwo cw m6 = (a1, m7))
    (h8 : c.div alpha A m7 = (r2, m8)) (h9 : c.sub F32.one r2 m8 = (a2, m9))
    (hnorm : bqNorm c b0 b1 b2 a0 a1 a2 m9 = (k, m10)) : peakDesign c fc q gdb fs n = (k, m10) := by
  unfold peakDesign
  rw [Dp.run_bind_of hpre]
  dsimp only
  rw [Dp.run_bind_of h0, Dp.run_bind_of h1, Dp.run_bind_of h2, Dp.run_bind_of h3, Dp.run_bind_of h4,
    Dp.run_bind_of h5, Dp.run_bind_of h6, Dp.run_bind_of h7, Dp.run_bind_of h8, Dp.run_bind_of h9]
  exact hnorm

/-- The low-shelf design from its prelude and its operations, in the order of R146. -/
theorem shelfDesign_run {c : Cfg}
    {fc q gdb fs A cw sw alpha sa h beta ap1 am1 p0 d0 s0 b0 twoA p1 d1 b1 p2 d2 s2 b2 p3 d3 a0 p4 d4 a1 p5
      d5 a2 : F32} {k : BqCoef}
    {n m m0 m1 m2 m3 m4 m5 m6 m7 m8 m9 m10 m11 m12 m13 m14 m15 m16 m17 m18 m19 m20 m21 m22 m23 m24 m25
      m26 : Nat}
    (hpre : bqPre c fc q gdb fs n = ((A, cw, sw, alpha), m))
    (h0 : c.sqrt A m = (sa, m0)) (h1 : c.mul F32.two sa m0 = (h, m1))
    (h2 : c.mul h alpha m1 = (beta, m2)) (h3 : c.add A F32.one m2 = (ap1, m3))
    (h4 : c.sub A F32.one m3 = (am1, m4))
    (h5 : c.mul am1 cw m4 = (p0, m5)) (h6 : c.sub ap1 p0 m5 = (d0, m6))
    (h7 : c.add d0 beta m6 = (s0, m7)) (h8 : c.mul A s0 m7 = (b0, m8))
    (h9 : c.mul F32.two A m8 = (twoA, m9)) (h10 : c.mul ap1 cw m9 = (p1, m10))
    (h11 : c.sub am1 p1 m10 = (d1, m11)) (h12 : c.mul twoA d1 m11 = (b1, m12))
    (h13 : c.mul am1 cw m12 = (p2, m13)) (h14 : c.sub ap1 p2 m13 = (d2, m14))
    (h15 : c.sub d2 beta m14 = (s2, m15)) (h16 : c.mul A s2 m15 = (b2, m16))
    (h17 : c.mul am1 cw m16 = (p3, m17)) (h18 : c.add ap1 p3 m17 = (d3, m18))
    (h19 : c.add d3 beta m18 = (a0, m19))
    (h20 : c.mul ap1 cw m19 = (p4, m20)) (h21 : c.add am1 p4 m20 = (d4, m21))
    (h22 : c.mul F32.negTwo d4 m21 = (a1, m22))
    (h23 : c.mul am1 cw m22 = (p5, m23)) (h24 : c.add ap1 p5 m23 = (d5, m24))
    (h25 : c.sub d5 beta m24 = (a2, m25))
    (hnorm : bqNorm c b0 b1 b2 a0 a1 a2 m25 = (k, m26)) : shelfDesign c fc q gdb fs n = (k, m26) := by
  unfold shelfDesign
  rw [Dp.run_bind_of hpre]
  dsimp only
  rw [Dp.run_bind_of h0, Dp.run_bind_of h1, Dp.run_bind_of h2, Dp.run_bind_of h3, Dp.run_bind_of h4,
    Dp.run_bind_of h5, Dp.run_bind_of h6, Dp.run_bind_of h7, Dp.run_bind_of h8, Dp.run_bind_of h9,
    Dp.run_bind_of h10, Dp.run_bind_of h11, Dp.run_bind_of h12, Dp.run_bind_of h13, Dp.run_bind_of h14,
    Dp.run_bind_of h15, Dp.run_bind_of h16, Dp.run_bind_of h17, Dp.run_bind_of h18, Dp.run_bind_of h19,
    Dp.run_bind_of h20, Dp.run_bind_of h21, Dp.run_bind_of h22, Dp.run_bind_of h23, Dp.run_bind_of h24,
    Dp.run_bind_of h25]
  exact hnorm

/-- Settles O36: the designs are their runs, and the setters run a design on clamped operands. -/
theorem filterSetters : Obligations.FilterSetters := by
  unfold Obligations.FilterSetters
  refine ⟨fun c fc q gdb fs k => ?designs, fun s hinit h0 h1 h2 => ?bq, fun s hinit h0 => ?op⟩
  case designs =>
    intro e A w w0 cw sw q2 alpha norm peak shelf
    have hpre : bqPre c fc q gdb fs k = ((A, cw, sw, alpha.1), alpha.2) :=
      bqPre_run (run_pair e) (run_pair w) (run_pair w0) (run_pair q2) (run_pair alpha)
    have hnorm (b0 b1 b2 a0 a1 a2 : F32) (n : Nat) :
        bqNorm c b0 b1 b2 a0 a1 a2 n = norm b0 b1 b2 a0 a1 a2 n := by
      unfold norm
      extract_lets n0 n1 n2 m1 m2
      exact bqNorm_run (run_pair n0) (run_pair n1) (run_pair n2) (run_pair m1) (run_pair m2)
    clear_value norm alpha
    refine ⟨hpre, ?_, ?_⟩
    · unfold peak
      extract_lets p0 b0 b1 p2 b2 r0 a0 a1 r2 a2
      exact peakDesign_run hpre (run_pair p0) (run_pair b0) (run_pair b1) (run_pair p2) (run_pair b2)
        (run_pair r0) (run_pair a0) (run_pair a1) (run_pair r2) (run_pair a2) (hnorm _ _ _ _ _ _ _)
    · unfold shelf
      extract_lets sa h beta ap1 am1 p0 d0 s0 b0 twoA p1 d1 b1 p2 d2 s2 b2 p3 d3 a0 p4 d4 a1 p5 d5 a2
      exact shelfDesign_run hpre (run_pair sa) (run_pair h) (run_pair beta) (run_pair ap1) (run_pair am1)
        (run_pair p0) (run_pair d0) (run_pair s0) (run_pair b0) (run_pair twoA) (run_pair p1) (run_pair d1)
        (run_pair b1) (run_pair p2) (run_pair d2) (run_pair s2) (run_pair b2) (run_pair p3) (run_pair d3)
        (run_pair a0) (run_pair p4) (run_pair d4) (run_pair a1) (run_pair p5) (run_pair d5) (run_pair a2)
        (hnorm _ _ _ _ _ _ _)
  case bq =>
    intro c hi fc q' g pk ls
    have hclamps := bqClamps_run (run_pair hi) (run_pair fc) (run_pair q') (run_pair g)
    exact ⟨exec_run_bind (i := .bqSetPeaking) rfl hinit (operandsFinite_three rfl h0 h1 h2)
        (peakClamped_run hclamps (run_pair pk)) rfl,
      exec_run_bind (i := .bqSetLowshelf) rfl hinit (operandsFinite_three rfl h0 h1 h2)
        (shelfClamped_run hclamps (run_pair ls)) rfl⟩
  case op =>
    intro c hi fc t t' a
    have hcoef := opCoefClamped_run (run_pair hi) (run_pair fc) (run_pair t) (run_pair t') (run_pair a)
    exact ⟨exec_run_bind (i := .opSetLowpass) rfl hinit (operandsFinite_one rfl h0) hcoef rfl,
      exec_run_bind (i := .opSetHighpass) rfl hinit (operandsFinite_one rfl h0) hcoef rfl⟩

end Sys2Proof.Machine
end

section
/-! Bounds on what the units compute (41_oscillator.md R183 to R185, 42_delay.md R200 to R204, 45_reverb_hall.md
R312 to R314, 46_reverb_spring.md R354): every stage whose operands are in range computes a result in range
and draws no NaN. -/

namespace Sys2Proof

/-! Flushing and rounding. -/

theorem Cfg.flush_value_cases (c : Cfg) (x : F32) :
    F32.value (c.flush x) = F32.value x ∨ F32.value (c.flush x) = 0 := by
  unfold Cfg.flush
  split
  · exact .inr (F32.value_zeroLike x)
  · exact .inl rfl

/-- Below 2^24 the encoding counts the units. -/
theorem F32.unitsOfMag_small {m : Nat} (h : m < 2 ^ 24) : F32.unitsOfMag m = m := by
  unfold F32.unitsOfMag
  split
  · omega
  · have h1 : m / 2 ^ 23 = 1 := by omega
    rw [h1]
    omega

/-- From 2^24 up, one exponent less is half the value. -/
theorem F32.unitsOfMag_halve {m : Nat} (h : 2 ^ 24 ≤ m) :
    F32.unitsOfMag m = 2 * F32.unitsOfMag (m - 2 ^ 23) := by
  obtain ⟨e, f, hf, rfl⟩ : ∃ e f, f < 2 ^ 23 ∧ m = (e + 2) * 2 ^ 23 + f :=
    ⟨m / 2 ^ 23 - 2, m % 2 ^ 23, by omega, by omega⟩
  have hsub : (e + 2) * 2 ^ 23 + f - 2 ^ 23 = (e + 1) * 2 ^ 23 + f := by omega
  have hdiv (k : Nat) : (k * 2 ^ 23 + f) / 2 ^ 23 = k := by omega
  have hmod (k : Nat) : (k * 2 ^ 23 + f) % 2 ^ 23 = f := by omega
  rw [hsub, F32.unitsOfMag, F32.unitsOfMag, hdiv, hdiv, hmod, hmod, if_neg (by omega), if_neg (by omega),
    show e + 2 - 1 = (e + 1 - 1) + 1 from by omega, pow_succ]
  ring

/-- The half of a positive value, rounded, is at most three quarters of it; two thirds are reached at three
units (log entry 10). -/
theorem F32.roundUnits_half {m : Nat} (h0 : 0 < m) (hm : m < 0x7F800000) :
    4 * F32.unitsOfMag (F32.roundUnits (F32.unitsOfMag m * 2 ^ 148) (2 ^ 149)) ≤ 3 * F32.unitsOfMag m := by
  have key {h : Nat} (hh : h < 0x7F800000) (hle : F32.unitsOfMag m ≤ 2 * F32.unitsOfMag h)
      (h4 : 4 * F32.unitsOfMag h ≤ 3 * F32.unitsOfMag m) :
      4 * F32.unitsOfMag (F32.roundUnits (F32.unitsOfMag m * 2 ^ 148) (2 ^ 149)) ≤
        3 * F32.unitsOfMag m := by
    have hr : F32.roundUnits (F32.unitsOfMag m * 2 ^ 148) (2 ^ 149) ≤ h :=
      F32.roundUnits_le_of_le (Nat.two_pow_pos _) hh (by omega)
    have := F32.unitsOfMag_strictMono.monotone hr
    omega
  rcases Nat.lt_or_ge m (2 ^ 24) with hs | hb
  · rcases Nat.lt_or_ge m 2 with h1 | h2
    · obtain rfl : m = 1 := by omega
      decide
    · refine key (h := (m + 1) / 2) (by omega) ?_ ?_ <;>
        rw [F32.unitsOfMag_small hs, F32.unitsOfMag_small (by omega)] <;> omega
  · have hu := F32.unitsOfMag_halve hb
    exact key (h := m - 2 ^ 23) (by omega) (by omega) (by omega)

/-- A finite product is no NaN: it may be an infinity. -/
theorem Cfg.mul_of_finite (c : Cfg) {x y : F32} (k : Nat) (hx : F32.isFinite x = true)
    (hy : F32.isFinite y = true) : ∃ r, c.mul x y k = (r, k) ∧ F32.isNaN r = false := by
  have hx' := c.flush_finite hx
  have hy' := c.flush_finite hy
  have hle := F32.roundUnits_le (F32.units (c.flush x) * F32.units (c.flush y)) (2 ^ 149)
  refine ⟨c.flush (F32.pack (F32.sign (c.flush x) != F32.sign (c.flush y))
    (F32.roundUnits (F32.units (c.flush x) * F32.units (c.flush y)) (2 ^ 149))), ?_, ?_⟩
  · show c.finish (F32.mul (c.flush x) (c.flush y)) k = _
    unfold F32.mul
    simp only [F32.not_isNaN_of_finite hx', F32.not_isNaN_of_finite hy', F32.not_isInf_of_finite hx',
      F32.not_isInf_of_finite hy', Bool.or_self, Bool.false_eq_true, if_false]
    rfl
  · rw [c.flush_isNaN, F32.isNaN, F32.mag_pack _ _ (by omega), decide_eq_false_iff_not]
    omega

/-- The half of a positive finite value, as the datapath computes it. -/
theorem Cfg.mul_half (c : Cfg) {fs : F32} (k : Nat) (hfin : F32.isFinite fs = true)
    (hpos : 0 < F32.value (c.flush fs)) :
    ∃ hi, c.mul fs F32.half k = (hi, k) ∧ F32.isFinite hi = true ∧ c.flush hi = hi ∧ 0 ≤ F32.value hi ∧
      4 * F32.value hi ≤ 3 * F32.value (c.flush fs) := by
  have hfin' := c.flush_finite hfin
  have hhalf : F32.units F32.half = 2 ^ 148 := by decide
  have hsign := F32.sign_of_pos hpos
  have hu := F32.value_of_nonneg hpos.le
  have hmag : 0 < F32.mag (c.flush fs) := by
    rw [hu, F32.units_eq] at hpos
    rcases Nat.eq_zero_or_pos (F32.mag (c.flush fs)) with h | h
    · rw [h] at hpos
      exact absurd hpos (by decide)
    · exact h
  have hr := F32.roundUnits_half hmag ((F32.isFinite_iff _).1 hfin')
  generalize hR : F32.roundUnits (F32.unitsOfMag (F32.mag (c.flush fs)) * 2 ^ 148) (2 ^ 149) = R at hr
  have hRlt : R < 0x7F800000 := by
    rw [← F32.unitsOfMag_strictMono.lt_iff_lt]
    have := F32.unitsOfMag_strictMono ((F32.isFinite_iff _).1 hfin')
    omega
  have hval : F32.value (F32.pack false R) = F32.unitsOfMag R := F32.value_pack false R (by omega)
  have hfinR : F32.isFinite (F32.pack false R) = true := by
    rw [F32.isFinite_iff, F32.mag_pack _ _ (by omega)]
    exact hRlt
  have hmul : F32.mul (c.flush fs) F32.half = some (F32.pack false R) := by
    unfold F32.mul
    simp only [F32.not_isNaN_of_finite hfin', F32.not_isInf_of_finite hfin', hsign, hhalf,
      F32.units_eq (c.flush fs), hR, show F32.isNaN F32.half = false from by decide,
      show F32.isInf F32.half = false from by decide, show F32.sign F32.half = false from by decide,
      Bool.or_self, Bool.false_eq_true, if_false, bne_self_eq_false]
  refine ⟨c.flush (F32.pack false R), ?_, c.flush_finite hfinR, c.flush_flush _, ?_⟩
  · show c.finish (F32.mul (c.flush fs) (c.flush F32.half)) k = _
    rw [c.flush_solid (x := F32.half) (by decide), hmul]
    rfl
  · rw [hu, F32.units_eq]
    rcases c.flush_value_cases (F32.pack false R) with h | h <;> rw [h]
    · rw [hval]
      omega
    · omega

/-! Comparisons and clamps. -/

/-- A clamp between bounds in order lies between them. -/
theorem F32.clamped_within {v lo hi : F32} (hv : F32.isNaN v = false) (hlo : F32.isNaN lo = false)
    (hhi : F32.isNaN hi = false) (hle : F32.value lo ≤ F32.value hi) :
    F32.within lo (F32.clamped v lo hi) hi = true := by
  unfold F32.clamped
  split
  · exact F32.within_intro hlo hlo hhi le_rfl hle
  · rename_i h1
    rw [F32.lt_iff hv hlo, not_lt] at h1
    split
    · exact F32.within_intro hlo hhi hhi hle le_rfl
    · rename_i h2
      rw [F32.lt_iff hhi hv, not_lt] at h2
      exact F32.within_intro hlo hv hhi h1 h2

/-- A clamp of a value that is not a NaN between finite bounds, the lower one +0, lies between them. -/
theorem Cfg.clamp_zero_within (c : Cfg) {v hi : F32} (k : Nat) (hv : F32.isFinite v = true)
    (hhi : F32.isFinite hi = true) (h0 : 0 ≤ F32.value hi) :
    ∃ r, c.clamp v F32.zero hi k = (r, k) ∧ c.flush r = r ∧ F32.isFinite r = true ∧
      F32.within F32.zero r hi = true := by
  have hzf : c.flush F32.zero = F32.zero := c.flush_solid (by decide)
  obtain ⟨r, hr, hcases, hup, hlow, -⟩ := c.clamp_spec k (F32.not_isNaN_of_finite hv)
    (show F32.isNaN F32.zero = false by decide) (F32.not_isNaN_of_finite hhi)
  have hfhi : 0 ≤ F32.value (c.flush hi) ∧ F32.value (c.flush hi) ≤ F32.value hi := by
    rcases c.flush_value_cases hi with h | h <;> omega
  have hfin : F32.isFinite r = true := by
    rcases hcases with h | h | h <;> rw [h]
    · exact c.flush_finite hv
    · exact c.flush_finite (by decide)
    · exact c.flush_finite hhi
  have hflush : c.flush r = r := by
    rcases hcases with h | h | h <;> rw [h, c.flush_flush]
  rw [hzf, F32.value_zero] at hlow
  refine ⟨r, hr, hflush, hfin, F32.within_intro (by decide) (F32.not_isNaN_of_finite hfin)
    (F32.not_isNaN_of_finite hhi) ?_ ?_⟩
  · rw [F32.value_zero]
    exact hlow hfhi.1
  · omega

theorem F32.inUnit_elim {x : F32} (h : F32.inUnit x = true) :
    F32.isFinite x = true ∧ 0 ≤ F32.value x ∧ F32.value x ≤ F32.value F32.one := by
  have hfin := F32.finite_of_within (lo := F32.zero) (hi := F32.one) (by decide) (by decide) h
  obtain ⟨-, -, -, h1, h2⟩ := F32.within_elim (lo := F32.zero) (hi := F32.one) h
  rw [F32.value_zero] at h1
  exact ⟨hfin, h1, h2⟩

/-- A finite value of at least one is not subnormal. -/
theorem F32.isSolid_of_one_le {x : F32} (hf : F32.isFinite x = true) (h : F32.value F32.one ≤ F32.value x) :
    F32.isSolid x = true := by
  rw [F32.isSolid, hf, Bool.true_and, Bool.not_eq_true']
  by_contra hs
  have hlt := F32.units_of_subnormal (Bool.not_eq_false _ ▸ hs)
  have hle := F32.value_le_units x
  rw [F32.value_one] at h
  omega

/-! Absolute value. -/

theorem F32.mag_abs (x : F32) : F32.mag (F32.abs x) = F32.mag x := by
  unfold F32.mag F32.abs
  rw [BitVec.toNat_and, show (0x7FFFFFFF#32 : BitVec 32).toNat = 2 ^ 31 - 1 from rfl,
    Nat.and_two_pow_sub_one_eq_mod, Nat.mod_mod]

theorem F32.sign_abs (x : F32) : F32.sign (F32.abs x) = false := by
  unfold F32.sign F32.abs
  simp

theorem F32.value_abs (x : F32) : F32.value (F32.abs x) = F32.units x := by
  rw [F32.value, F32.sign_abs, F32.units_eq, F32.units_eq, F32.mag_abs]
  rfl

theorem F32.isFinite_abs (x : F32) : F32.isFinite (F32.abs x) = F32.isFinite x := by
  rw [Bool.eq_iff_iff, F32.isFinite_iff, F32.isFinite_iff, F32.mag_abs]

theorem F32.isSolid_neg (x : F32) : F32.isSolid (F32.neg x) = F32.isSolid x := by
  rw [F32.isSolid, F32.isSolid, F32.isFinite_neg, F32.isSubnormal, F32.isSubnormal, F32.mag_neg]

namespace Machine

/-! Oscillators. -/

theorem Osc.InRange.phase_value {o : Osc} (h : o.InRange) :
    F32.isFinite o.phase = true ∧ 0 ≤ F32.value o.phase ∧ F32.value o.phase < F32.value F32.one := by
  obtain ⟨-, hn, h1⟩ := F32.le_elim h.phase.1
  obtain ⟨-, -, h2⟩ := F32.lt_elim h.phase.2
  refine ⟨F32.finite_of_within (lo := F32.zero) (hi := F32.one) (by decide) (by decide)
    (F32.within_intro (by decide) hn (by decide) h1 h2.le), ?_, h2⟩
  rwa [F32.value_zero] at h1

/-- 1.75: the largest phase plus the largest increment. -/
def sevenQuarters : F32 := 0x3FE00000#32

/-- The advance of an oscillator in range draws nothing and leaves it in range (R184): only the phase and the
flags change. -/
theorem advance_inRange (c : Cfg) {o : Osc} (h : o.InRange) (n : Nat) :
    ∃ p eoc eorh, advance c o n = ({ o with phase := p, eoc := eoc, eorh := eorh }, n) ∧
      ({ o with phase := p, eoc := eoc, eorh := eorh } : Osc).InRange := by
  obtain ⟨hpf, hp0, hp1⟩ := h.phase_value
  have hif := F32.finite_of_within (by decide) (by decide) h.inc
  obtain ⟨-, -, -, hi0, hi1⟩ := F32.within_elim h.inc
  have hphase := c.flush_between (x := o.phase) (lo := F32.zero) (hi := F32.one) (by decide) (by decide)
    (by rw [F32.value_zero]; exact hp0) hp1.le
  have hinc := c.flush_between (x := o.inc) (lo := F32.zero) (hi := F32.threeQuarters) (by decide)
    (by decide) hi0 hi1
  have h34 : F32.value F32.threeQuarters = 3 * 2 ^ 147 := by decide
  have h74 : F32.value sevenQuarters = 7 * 2 ^ 147 := by decide
  rw [F32.value_zero, F32.value_one] at hphase
  rw [F32.value_zero, h34] at hinc
  obtain ⟨t, ht, htf, ht0, ht1⟩ := c.add_between (lo := F32.zero) (hi := sevenQuarters) n hpf hif
    (by decide) (by decide) (by rw [F32.value_zero]; omega) (by rw [h74]; omega)
  have hof : c.flush F32.one = F32.one := c.flush_solid (by decide)
  have htn : F32.isNaN (c.flush t) = false := by rw [c.flush_isNaN]; exact F32.not_isNaN_of_finite htf
  have hon : F32.isNaN F32.one = false := by decide
  have hzn : F32.isNaN F32.zero = false := by decide
  have hft := c.flush_between (x := t) (by decide) (by decide) ht0 ht1
  rw [F32.value_zero, h74] at hft
  cases hle : c.le F32.one t with
  | true =>
    have hle' := hle
    rw [Cfg.le, hof, F32.le_iff hon htn, F32.value_one] at hle'
    obtain ⟨p, hp, hpfin, hplo, hphi⟩ := c.sub_between (lo := F32.zero) (hi := F32.threeQuarters) n htf
      (y := F32.one) (by decide) (by decide) (by decide)
      (by rw [hof, F32.value_zero, F32.value_one]; omega) (by rw [hof, h34, F32.value_one]; omega)
    have hpn := F32.not_isNaN_of_finite hpfin
    refine ⟨p, _, _, advance_run_wrap ht hle hp, ⟨(F32.le_iff hzn hpn).2 hplo, ?_⟩, h.inc⟩
    rw [F32.lt_iff hpn hon, F32.value_one]
    omega
  | false =>
    have htn' := F32.not_isNaN_of_finite htf
    refine ⟨t, _, _, advance_run_stay ht hle, ⟨(F32.le_iff hzn htn').2 ht0, ?_⟩, h.inc⟩
    rw [F32.lt_iff htn' hon]
    by_contra hge
    have := (c.flush_between (x := t) (lo := F32.one) (hi := sevenQuarters) (by decide) (by decide)
      (not_lt.1 hge) ht1).1
    rw [Cfg.le, hof, ← Bool.not_eq_true, F32.le_iff hon htn] at hle
    exact hle this

/-- A rate as the datapath reads it. -/
theorem validRate_value {fs : F32} (h : validRate fs) :
    F32.isFinite fs = true ∧ 0 < F32.value (Config.cfg.flush fs) := by
  obtain ⟨-, -, hlt⟩ := F32.lt_elim h.2
  rw [F32.value_zero] at hlt
  exact ⟨h.1, hlt⟩

/-- The frequency setter at a valid rate: each step of R185, the frequency between 0 and half the rate, the
increment in range. -/
theorem setFreq_steps {fs hz : F32} (hfs : validRate fs) (hhz : F32.isFinite hz = true) (n : Nat) :
    ∃ hi f inc, (Config.cfg.mul fs F32.half).Gives n hi ∧ (Config.cfg.clamp hz F32.zero hi).Gives n f ∧
      (Config.cfg.div f fs).Gives n inc ∧ F32.within F32.zero f hi = true ∧
      F32.within F32.zero inc F32.threeQuarters = true := by
  obtain ⟨hfin, hpos⟩ := validRate_value hfs
  obtain ⟨hi, hhi, hhif, -, hhi0, hhi1⟩ := Config.cfg.mul_half n hfin hpos
  obtain ⟨f, hf, hff, hffin, hwithin⟩ := Config.cfg.clamp_zero_within n hhz hhif hhi0
  obtain ⟨-, -, -, hf0, hf1⟩ := F32.within_elim hwithin
  have h34 : F32.value F32.threeQuarters = 3 * 2 ^ 147 := by decide
  rw [F32.value_zero] at hf0
  obtain ⟨inc, hinc, hincf, hinc0, hinc1⟩ := Config.cfg.div_between (lo := F32.zero)
    (hi := F32.threeQuarters) n hffin hfin hpos (by decide) (by decide)
    (by rw [hff, F32.value_zero]; omega) (by rw [hff, h34]; omega)
  exact ⟨hi, f, inc, hhi, hf, hinc, hwithin,
    F32.within_intro (by decide) (F32.not_isNaN_of_finite hincf) (by decide) hinc0 hinc1⟩

/-- The triangle of a phase in [0,1) lies in [−1, 1] (R183). -/
theorem shape_triangle_within (c : Cfg) {φ : F32} (hf : F32.isFinite φ = true) (h0 : 0 ≤ F32.value φ)
    (h1 : F32.value φ ≤ F32.value F32.one) (n : Nat) :
    ∃ r, shape c .triangle φ n = (r, n) ∧ F32.isFinite r = true ∧
      F32.value (F32.neg F32.one) ≤ F32.value r ∧ F32.value r ≤ F32.value F32.one := by
  have hhalf : F32.value F32.half = 2 ^ 148 := by decide
  have hnhalf : F32.value (F32.neg F32.half) = - 2 ^ 148 := by decide
  have htwo : F32.value F32.two = 2 ^ 150 := by decide
  have hfour : F32.value F32.four = 2 ^ 151 := by decide
  have hneg : F32.value (F32.neg F32.one) = - 2 ^ 149 := by decide
  have hφ := c.flush_between (x := φ) (lo := F32.zero) (hi := F32.one) (by decide) (by decide)
    (by rw [F32.value_zero]; exact h0) h1
  rw [F32.value_zero, F32.value_one] at hφ
  obtain ⟨d, hd, hdf, hd0, hd1⟩ := c.sub_between (y := F32.half) (lo := F32.neg F32.half)
    (hi := F32.half) n hf (by decide) (by decide) (by decide)
    (by rw [c.flush_solid (x := F32.half) (by decide), hnhalf, hhalf]; omega)
    (by rw [c.flush_solid (x := F32.half) (by decide), hhalf]; omega)
  have habs : 0 ≤ F32.value (F32.abs d) ∧ F32.value (F32.abs d) ≤ 2 ^ 148 := by
    rw [hnhalf] at hd0
    rw [hhalf] at hd1
    rw [F32.value_abs]
    rcases le_or_gt 0 (F32.value d) with hs | hs
    · rw [F32.value_of_nonneg hs] at hd1
      omega
    · rw [F32.value_of_nonpos hs.le] at hd0
      omega
  have hfabs : 0 ≤ F32.value (c.flush (F32.abs d)) ∧ F32.value (c.flush (F32.abs d)) ≤ 2 ^ 148 := by
    rcases c.flush_value_cases (F32.abs d) with h | h <;> omega
  obtain ⟨t, ht, htf, ht0, ht1⟩ := c.mul_between (x := F32.four) (lo := F32.zero) (hi := F32.two) n
    (by decide) (y := F32.abs d) (by rw [F32.isFinite_abs]; exact hdf) (by decide) (by decide)
    (by rw [c.flush_solid (x := F32.four) (by decide), hfour, F32.value_zero]; omega)
    (by rw [c.flush_solid (x := F32.four) (by decide), hfour, htwo]; omega)
  have hft := c.flush_between (x := t) (by decide) (by decide) ht0 ht1
  rw [F32.value_zero, htwo] at hft
  obtain ⟨r, hr, hrf, hr0, hr1⟩ := c.sub_between (x := F32.one) (lo := F32.neg F32.one) (hi := F32.one) n
    (by decide) htf (by decide) (by decide)
    (by rw [c.flush_solid (x := F32.one) (by decide), hneg, F32.value_one]; omega)
    (by rw [c.flush_solid (x := F32.one) (by decide), F32.value_one]; omega)
  exact ⟨r, shape_run_triangle hd ht hr, hrf, hr0, hr1⟩

/-- A triangle oscillator in range, of amplitude 1, gives a value in [−1, 1] and draws nothing. -/
theorem oscStep_triangle (c : Cfg) {o : Osc} (h : o.InRange) (hw : o.wave = .triangle)
    (ha : o.amp = F32.one) (n : Nat) :
    ∃ tri, (oscStep c o n) = ((tri, (advance c o n).1), n) ∧ F32.isFinite tri = true ∧
      F32.value (F32.neg F32.one) ≤ F32.value tri ∧ F32.value tri ≤ F32.value F32.one := by
  obtain ⟨hpf, hp0, hp1⟩ := h.phase_value
  obtain ⟨s, hs, hsf, hs0, hs1⟩ := shape_triangle_within c hpf hp0 hp1.le n
  have hfs := c.flush_between (x := s) (by decide) (by decide) hs0 hs1
  have hneg : F32.value (F32.neg F32.one) = - 2 ^ 149 := by decide
  obtain ⟨p, eoc, eorh, hadv, -⟩ := advance_inRange c h n
  rw [hneg, F32.value_one] at hfs
  obtain ⟨r, hr, hrf, hr0, hr1⟩ := c.mul_between (x := F32.one) (y := s) (lo := F32.neg F32.one)
    (hi := F32.one) n (by decide) hsf (by decide) (by decide)
    (by rw [c.flush_solid (x := F32.one) (by decide), hneg, F32.value_one]; omega)
    (by rw [c.flush_solid (x := F32.one) (by decide), F32.value_one]; omega)
  refine ⟨r, ?_, hrf, hr0, hr1⟩
  rw [hadv]
  exact oscStep_run (hw ▸ hs) (ha ▸ hr) hadv

/-! The delay. -/

/-- `Dmax` as a value: at least one, below 2^24. -/
theorem dmax_solid : F32.isSolid (F32.ofNat Config.cfg.maxDelaySamples) = true ∧
    F32.value (F32.ofNat Config.cfg.maxDelaySamples) = Config.cfg.maxDelaySamples * 2 ^ 149 ∧
    F32.value F32.one ≤ F32.value (F32.ofNat Config.cfg.maxDelaySamples) := by
  have hrange := Config.cfg.maxDelay_range
  obtain ⟨hv, -, hs⟩ := F32.ofNat_spec (n := Config.cfg.maxDelaySamples) (by omega)
  refine ⟨hs, hv, ?_⟩
  rw [hv, F32.value_one]
  omega

/-- A delay between one and a whole number of samples can be read from a line two samples longer (R91). -/
theorem lineReadable_of_within {m len : Nat} {d : F32} (hm : m < 2 ^ 24) (hlen : m + 2 ≤ len)
    (h1 : F32.value F32.one ≤ F32.value d) (hn : F32.isNaN d = false)
    (h2 : F32.value d ≤ F32.value (F32.ofNat m)) : lineReadable len d = true := by
  obtain ⟨hv, hf, -⟩ := F32.ofNat_spec hm
  have hdf := F32.finite_of_within (lo := F32.one) (by decide) hf
    (F32.within_intro (by decide) hn (F32.not_isNaN_of_finite hf) h1 h2)
  rw [F32.value_one] at h1
  rw [hv] at h2
  have hsign := F32.sign_of_pos (x := d) (by omega)
  have hunits := F32.value_of_nonneg (x := d) (by omega)
  rw [lineReadable, hdf, hsign, Bool.not_false, Bool.and_self, Bool.true_and, decide_eq_true_eq]
  omega

/-- `DLY_SMOOTH` as the datapath reads it lies in [0, 1]. -/
theorem dlySmooth_value (c : Cfg) : F32.isFinite c.dlySmooth = true ∧
    0 ≤ F32.value (c.flush c.dlySmooth) ∧ F32.value (c.flush c.dlySmooth) ≤ 2 ^ 149 := by
  obtain ⟨-, hn, h0⟩ := F32.lt_elim c.dlySmooth_range.1
  obtain ⟨-, -, h1⟩ := F32.le_elim c.dlySmooth_range.2
  have hz : F32.value 0#32 = 0 := by decide
  refine ⟨F32.finite_of_within (lo := F32.zero) (hi := F32.one) (by decide) (by decide)
    (F32.within_intro (by decide) hn (by decide) h0.le h1), ?_⟩
  rw [hz] at h0
  rw [F32.value_one] at h1
  rcases c.flush_value_cases c.dlySmooth with h | h <;> omega

/-- A product with a factor in [0, 1] lies between the other factor and zero. -/
theorem mul_fraction_bounds {s x lo hi : Int} (hs0 : 0 ≤ s) (hs1 : s ≤ 2 ^ 149) (hlo : lo ≤ x)
    (hhi : x ≤ hi) (hlo0 : lo ≤ 0) (hhi0 : 0 ≤ hi) : lo * 2 ^ 149 ≤ s * x ∧ s * x ≤ hi * 2 ^ 149 := by
  constructor
  · calc lo * 2 ^ 149 ≤ lo * s := Int.mul_le_mul_of_nonpos_left hlo0 hs1
      _ = s * lo := Int.mul_comm _ _
      _ ≤ s * x := Int.mul_le_mul_of_nonneg_left hlo hs0
  · calc s * x ≤ s * hi := Int.mul_le_mul_of_nonneg_left hhi hs0
      _ = hi * s := Int.mul_comm _ _
      _ ≤ hi * 2 ^ 149 := Int.mul_le_mul_of_nonneg_left hs1 hhi0

/-- 2^24. -/
def twoPow24 : F32 := 0x4B800000#32

/-- The step from the smoothed time towards the target (R202): the new smoothed time stays in [0, 2^25].
Below the target the sum exceeds neither twice the target; above it, it stays between zero and where it
was. -/
theorem dlySmooth_inRange (c : Cfg) {dt dc : F32} (hdt : F32.isFinite dt = true)
    (hdc : F32.isFinite dc = true) (h1 : 2 ^ 149 ≤ F32.value dt) (h2 : F32.value dt ≤ 2 ^ 173)
    (h3 : 0 ≤ F32.value dc) (h4 : F32.value dc ≤ 2 ^ 174) (n : Nat) :
    ∃ d p r, c.sub dt dc n = (d, n) ∧ c.mul c.dlySmooth d n = (p, n) ∧ c.add dc p n = (r, n) ∧
      F32.isFinite r = true ∧ 0 ≤ F32.value r ∧ F32.value r ≤ 2 ^ 174 := by
  obtain ⟨hsf, hs0, hs1⟩ := dlySmooth_value c
  have h24 : F32.value twoPow24 = 2 ^ 173 := by decide
  have h25 : F32.value F32.twoPow25 = 2 ^ 174 := by decide
  have hz := F32.value_zero
  have hdts : c.flush dt = dt := c.flush_solid (F32.isSolid_of_one_le hdt (by rw [F32.value_one]; exact h1))
  rcases le_or_gt (F32.value (c.flush dc)) (F32.value dt) with hle | hgt
  · have hdc0 : 0 ≤ F32.value (c.flush dc) := by rcases c.flush_value_cases dc with h | h <;> omega
    obtain ⟨d, hd, hdf, hd0, hd1⟩ := c.sub_between (lo := F32.zero) (hi := twoPow24) n hdt hdc (by decide)
      (by decide) (by rw [hdts, hz]; omega) (by rw [hdts, h24]; omega)
    have hfd := c.flush_between (lo := F32.zero) (hi := twoPow24) (by decide) (by decide) hd0 hd1
    have h240 : 0 ≤ F32.value twoPow24 := by rw [h24]; positivity
    have hprod := mul_fraction_bounds hs0 hs1 hfd.1 hfd.2 hz.le h240
    obtain ⟨p, hp, hpf, hp0, hp1⟩ := c.mul_between (lo := F32.zero) (hi := twoPow24) n hsf hdf (by decide)
      (by decide) hprod.1 hprod.2
    have hfp := c.flush_between (lo := F32.zero) (hi := twoPow24) (by decide) (by decide) hp0 hp1
    rw [hz, h24] at hfp
    obtain ⟨r, hr, hrf, hr0, hr1⟩ := c.add_between (lo := F32.zero) (hi := F32.twoPow25) n hdc hpf
      (by decide) (by decide) (by rw [hz]; omega) (by rw [h25]; omega)
    exact ⟨d, p, r, hd, hp, hr, hrf, hz ▸ hr0, h25 ▸ hr1⟩
  · have hval : F32.value (c.flush dc) = F32.value dc := by
      rcases c.flush_value_cases dc with h | h <;> omega
    have hdcs : F32.isSolid dc = true :=
      F32.isSolid_of_one_le hdc (by rw [F32.value_one]; omega)
    have hns : F32.isSolid (F32.neg dc) = true := by rw [F32.isSolid_neg]; exact hdcs
    have hnv := F32.value_neg dc
    obtain ⟨d, hd, hdf, hd0, hd1⟩ := c.sub_between (lo := F32.neg dc) (hi := F32.zero) n hdt hdc hns
      (by decide) (by rw [hdts, hnv]; omega) (by rw [hdts, hz]; omega)
    have hfd := c.flush_between hns (by decide) hd0 hd1
    have hprod := mul_fraction_bounds hs0 hs1 hfd.1 hfd.2 (by omega) hz.ge
    obtain ⟨p, hp, hpf, hp0, hp1⟩ := c.mul_between n hsf hdf hns (by decide) hprod.1 hprod.2
    have hfp := c.flush_between hns (by decide) hp0 hp1
    rw [hz, hnv] at hfp
    obtain ⟨r, hr, hrf, hr0, hr1⟩ := c.add_between (lo := F32.zero) (hi := dc) n hdc hpf
      (by decide) hdcs (by rw [hz]; omega) (by omega)
    exact ⟨d, p, r, hd, hp, hr, hrf, hz ▸ hr0, by omega⟩

/-! The Hall. -/

/-- A normalised value times a factor that is not negative: nothing drawn, between zero and the factor. -/
theorem mul_inUnit (c : Cfg) {v k : F32} (hv : F32.inUnit v = true) (hk : F32.isSolid k = true)
    (h0 : 0 ≤ F32.value k) (n : Nat) :
    ∃ r, c.mul v k n = (r, n) ∧ 0 ≤ F32.value r ∧ F32.value r ≤ F32.value k := by
  obtain ⟨hvf, hv0, hv1⟩ := F32.inUnit_elim hv
  have hfv := c.flush_between (x := v) (lo := F32.zero) (hi := F32.one) (by decide) (by decide)
    (by rw [F32.value_zero]; exact hv0) hv1
  rw [F32.value_zero, F32.value_one] at hfv
  have hprod := mul_fraction_bounds hfv.1 hfv.2 h0 le_rfl le_rfl h0
  obtain ⟨r, hr, -, hr0, hr1⟩ := c.mul_between (lo := F32.zero) (hi := k) n hvf (F32.isSolid_finite hk)
    (by decide) hk (by rw [c.flush_solid hk, F32.value_zero]; exact hprod.1)
    (by rw [c.flush_solid hk]; exact hprod.2)
  rw [F32.value_zero] at hr0
  exact ⟨r, hr, hr0, hr1⟩

/-- `PD` of a normalised position lies within the pre-delay line (R312). -/
theorem hallPd_run_inRange (c : Cfg) {v : F32} (hv : F32.inUnit v = true) (n : Nat) :
    ∃ q, c.mul v (F32.ofNat c.rvhPredelayMax) n = (q, n) ∧ F32.roundEvenNat q ≤ c.rvhPredelayMax := by
  have hmax := c.rvhPredelayMax_range
  obtain ⟨hm, -, hms⟩ := F32.ofNat_spec (n := c.rvhPredelayMax) (by omega)
  obtain ⟨q, hq, hq0, hq1⟩ := mul_inUnit c hv hms (by rw [hm]; omega) n
  refine ⟨q, hq, ?_⟩
  rw [F32.value_of_nonneg hq0, hm] at hq1
  unfold F32.roundEvenNat
  dsimp only
  split <;> omega

/-- The Spring's gain is its decay, kept below `RVS_DECAY_MAX` (R354). -/
theorem springGain_within (c : Cfg) {v : F32} (hv : F32.inUnit v = true) (n : Nat) :
    ∃ g, c.clamp v F32.zero c.rvsDecayMax n = (g, n) ∧ F32.within F32.zero g c.rvsDecayMax = true := by
  obtain ⟨-, hn, h0⟩ := F32.lt_elim c.rvsDecayMax_range.1
  obtain ⟨-, -, h1⟩ := F32.lt_elim c.rvsDecayMax_range.2
  have hfin := F32.finite_of_within (lo := F32.zero) (hi := F32.one) (by decide) (by decide)
    (F32.within_intro (by decide) hn (by decide) h0.le h1.le)
  have hz : F32.value 0#32 = 0 := by decide
  obtain ⟨g, hg, -, -, hw⟩ := c.clamp_zero_within n (F32.inUnit_elim hv).1 hfin (by omega)
  exact ⟨g, hg, hw⟩

/-- A delay time of the Hall lies within `RVH_MOD_MAX` of its line's length (R311, R314). -/
theorem hallDelay_within (c : Cfg) (dpos : Fin 3) {tri : F32} (k : Fin 8) (hf : F32.isFinite tri = true)
    (h0 : F32.value (F32.neg F32.one) ≤ F32.value tri) (h1 : F32.value tri ≤ F32.value F32.one) (n : Nat) :
    ∃ d, hallDelay c dpos tri k n = (d, n) ∧
      F32.within (F32.ofNat (c.rvhLen k - c.rvhModMax)) d (F32.ofNat (c.rvhLen k + c.rvhModMax)) = true := by
  obtain ⟨hlen, hmax⟩ := c.rvhLen_range k
  obtain ⟨hlo, hlof, hlos⟩ := F32.ofNat_spec (n := c.rvhLen k - c.rvhModMax) (by omega)
  obtain ⟨hhi, hhif, hhis⟩ := F32.ofNat_spec (n := c.rvhLen k + c.rvhModMax) (by omega)
  obtain ⟨hmid, hmidf, hmids⟩ := F32.ofNat_spec (n := c.rvhLen k) (by omega)
  obtain ⟨hmod, hmodf, hmods⟩ := F32.ofNat_spec (n := c.rvhModMax) (by omega)
  have hlon := F32.not_isNaN_of_finite hlof
  have hhin := F32.not_isNaN_of_finite hhif
  rw [Nat.cast_sub (by omega)] at hlo
  rw [Nat.cast_add] at hhi
  cases hk : c.rvhModMask.getLsbD k.val with
  | false =>
    refine ⟨_, hallDelay_run_fixed hk, F32.within_intro hlon (F32.not_isNaN_of_finite hmidf) hhin ?_ ?_⟩
    · rw [hlo, hmid]
      omega
    · rw [hhi, hmid]
      omega
  | true =>
    obtain ⟨-, htn, ht0⟩ := F32.le_elim (c.rvhDepth_range dpos).1
    obtain ⟨-, -, ht1⟩ := F32.le_elim (c.rvhDepth_range dpos).2
    have htf := F32.finite_of_within (lo := 0#32) (by decide) hmodf
      (F32.within_intro (by decide) htn (F32.not_isNaN_of_finite hmodf) ht0 ht1)
    have hfd := c.flush_between (by decide) hmods ht0 ht1
    have hft := c.flush_between (by decide) (by decide) h0 h1
    have hneg : F32.value (F32.neg F32.one) = - 2 ^ 149 := by decide
    have hz : F32.value 0#32 = 0 := by decide
    have hns : F32.isSolid (F32.neg (F32.ofNat c.rvhModMax)) = true := by rw [F32.isSolid_neg]; exact hmods
    have hnv := F32.value_neg (F32.ofNat c.rvhModMax)
    rw [hneg, F32.value_one] at hft
    rw [hz] at hfd
    have hup := Int.mul_le_mul_of_nonneg_left hft.2 hfd.1
    have hdown := Int.mul_le_mul_of_nonneg_left hft.1 hfd.1
    obtain ⟨e, he, hef, he0, he1⟩ := c.mul_between (lo := F32.neg (F32.ofNat c.rvhModMax))
      (hi := F32.ofNat c.rvhModMax) n htf hf hns hmods (by rw [hnv]; omega) (by omega)
    have hfe := c.flush_between hns hmods he0 he1
    rw [hnv, hmod] at hfe
    obtain ⟨d, hd, hdf, hd0, hd1⟩ := c.add_between (x := F32.ofNat (c.rvhLen k))
      (lo := F32.ofNat (c.rvhLen k - c.rvhModMax)) (hi := F32.ofNat (c.rvhLen k + c.rvhModMax)) n hmidf hef
      hlos hhis (by rw [c.flush_solid hmids, hlo, hmid]; omega)
      (by rw [c.flush_solid hmids, hhi, hmid]; omega)
    exact ⟨d, hallDelay_run_modulated hk he hd,
      F32.within_intro hlon (F32.not_isNaN_of_finite hdf) hhin hd0 hd1⟩

/-- The eight delay times of the Hall, from a triangle oscillator in range: all can be read (R91, R314). -/
theorem hallDelays_inRange (c : Cfg) {u : RvhUnit} (ho : u.o.InRange) (hw : u.o.wave = .triangle)
    (ha : u.o.amp = F32.one) (n : Nat) :
    ∃ ds, hallDelays c u n = (((advance c u.o n).1, ds), n) ∧ ∀ j,
      F32.within (F32.ofNat (c.rvhLen j - c.rvhModMax)) (ds.get j)
        (F32.ofNat (c.rvhLen j + c.rvhModMax)) = true ∧
      lineReadable (hallLen c j) (ds.get j) = true := by
  obtain ⟨tri, htri, hf, h0, h1⟩ := oscStep_triangle c ho hw ha n
  choose d hd hwithin using fun k => hallDelay_within c u.p.dpos k hf h0 h1 n
  refine ⟨Eight.make d, hallDelays_run htri (eightDp_gives fun k => by rw [hd, Eight.get_make]), fun j => ?_⟩
  rw [Eight.get_make]
  obtain ⟨hlen, hmax⟩ := c.rvhLen_range j
  obtain ⟨-, hn, -, hlo, hhi⟩ := F32.within_elim (hwithin j)
  refine ⟨hwithin j, lineReadable_of_within (m := c.rvhLen j + c.rvhModMax) (by omega) ?_ ?_ hn hhi⟩
  · rw [hallLen]
  · obtain ⟨hv, -⟩ := F32.ofNat_spec (n := c.rvhLen j - c.rvhModMax) (by omega)
    rw [hv] at hlo
    rw [F32.value_one]
    omega

/-- Settles O50: the oscillator's triangle, then each delay time around its line's length. -/
theorem hallDelayRange : Obligations.HallDelayRange := by
  unfold Obligations.HallDelayRange
  intro u k ho hw ha
  obtain ⟨tri, htri, hf, h0, h1⟩ := oscStep_triangle Config.cfg ho hw ha k
  obtain ⟨ds, hds, hrange⟩ := hallDelays_inRange Config.cfg ho hw ha k
  exact ⟨tri, _, ds, htri, F32.within_intro (by decide) (F32.not_isNaN_of_finite hf) (by decide) h0 h1, hds,
    hrange⟩

end Machine
end Sys2Proof
end

section
/-! What each `INIT` computes from its rate (42_delay.md R200, 43_tremolo.md R235 to R250, 44_reverb.md R290,
45_reverb_hall.md R330, 46_reverb_spring.md R360): the defaults through their setters' clamps. -/

namespace Sys2Proof.Machine

/-! DLY. -/

theorem dlyInitial_run {c : Cfg} {fs m dlo dt fb : F32} {n n1 n2 n3 n4 : Nat}
    (h1 : c.mul c.delayTimeMinSeconds fs n = (m, n1))
    (h2 : c.clamp m F32.one (F32.ofNat c.maxDelaySamples) n1 = (dlo, n2))
    (h3 : c.clamp c.defDlyTime dlo (F32.ofNat c.maxDelaySamples) n2 = (dt, n3))
    (h4 : c.clampUnit c.defDlyFeedback n3 = (fb, n4)) :
    dlyInitial c fs n =
      ({ init := true, fs := fs, lineL := Line.zero, lineR := Line.zero, dt := dt, dc := dt, fb := fb,
         dmax := F32.ofNat c.maxDelaySamples, dlo := dlo }, n4) := by
  unfold dlyInitial
  rw [Dp.run_bind_of h1, Dp.run_bind_of h2, Dp.run_bind_of h3, Dp.run_bind_of h4, Dp.run_pure]

/-- A clamp between two bounds in order, the lower one at least one, gives a value between them. -/
theorem clamp_run_within (c : Cfg) {v lo hi : F32} (hv : F32.isNaN v = false) (hhi : F32.isFinite hi = true)
    (h1 : F32.value F32.one ≤ F32.value lo) (hw : F32.within lo lo hi = true) (n : Nat) :
    c.clamp v lo hi n = (F32.clamped (c.flush v) lo hi, n) ∧
      F32.within lo (F32.clamped (c.flush v) lo hi) hi = true := by
  obtain ⟨hlon, -, hhin, -, hle⟩ := F32.within_elim hw
  have hone : 0 < F32.value F32.one := by decide
  have hlof : F32.isFinite lo = true := F32.finite_of_within (lo := F32.one) (by decide) hhi
    (F32.within_intro (by decide) hlon hhin h1 hle)
  exact ⟨clamp_run c hv (F32.isSolid_of_one_le hlof h1) (F32.isSolid_of_one_le hhi (h1.trans hle))
      (hone.trans_le h1) hle n,
    F32.clamped_within (by rw [c.flush_isNaN]; exact hv) hlon hhin hle⟩

/-- The steps of `DLY.INIT` (R200): nothing is drawn, and each bound is in order. -/
theorem dlyInitial_steps {fs : F32} (hfs : F32.isFinite fs = true) (n : Nat) :
    ∃ m dlo dt, (Config.cfg.mul Config.cfg.delayTimeMinSeconds fs).Gives n m ∧
      (Config.cfg.clamp m F32.one (F32.ofNat Config.cfg.maxDelaySamples)).Gives n dlo ∧
      (Config.cfg.clamp Config.cfg.defDlyTime dlo (F32.ofNat Config.cfg.maxDelaySamples)).Gives n dt ∧
      F32.within F32.one dlo (F32.ofNat Config.cfg.maxDelaySamples) = true ∧
      F32.within dlo dt (F32.ofNat Config.cfg.maxDelaySamples) = true ∧
      dlyInitial Config.cfg fs n =
        ({ init := true, fs := fs, lineL := Line.zero, lineR := Line.zero, dt := dt, dc := dt,
           fb := F32.unitClamped (Config.cfg.flush Config.cfg.defDlyFeedback),
           dmax := F32.ofNat Config.cfg.maxDelaySamples, dlo := dlo }, n) := by
  obtain ⟨htime, hfb, -⟩ := Config.cfg.def_finite
  obtain ⟨hsolid, -, hmax⟩ := dmax_solid
  have hmaxf := F32.isSolid_finite hsolid
  have hmaxn := F32.not_isNaN_of_finite hmaxf
  obtain ⟨m, hm, hmn⟩ := Config.cfg.mul_of_finite n Config.cfg.delayTimeMin_range.1 hfs
  obtain ⟨hdlo, hlow⟩ := clamp_run_within Config.cfg hmn hmaxf le_rfl
    (F32.within_intro (by decide) (by decide) hmaxn le_rfl hmax) n
  generalize F32.clamped (Config.cfg.flush m) F32.one (F32.ofNat Config.cfg.maxDelaySamples) = dlo at hdlo hlow
  obtain ⟨-, hlon, -, hlo1, hlo2⟩ := F32.within_elim hlow
  obtain ⟨hdt, htw⟩ := clamp_run_within Config.cfg (F32.not_isNaN_of_finite htime) hmaxf hlo1
    (F32.within_intro hlon hlon hmaxn le_rfl hlo2) n
  exact ⟨m, dlo, _, hm, hdlo, hdt, hlow, htw,
    dlyInitial_run hm hdlo hdt (clampUnit_run _ (F32.not_isNaN_of_finite hfb) n)⟩

/-- Settles O21: the steps of R200. -/
theorem initDelay : Obligations.InitDelay := by
  unfold Obligations.InitDelay
  intro s hfin hlt
  obtain ⟨m, dlo, dt, hm, hdlo, hdt, hlow, htw, hrun⟩ :=
    dlyInitial_steps (fs := s.f0) (Config.cfg.flush_finite hfin) s.draws
  refine ⟨m, dlo, dt, hm, hdlo, hdt, hlow, htw, ?_⟩
  rw [exec_init_run (i := .dlyInit) rfl rfl hfin hlt, Dp.run_bind_of hrun]
  rfl

/-! The tremolos. -/

theorem trmOsc_run {c : Cfg} {w : Wave} {k fs depth hi f inc amp : F32} {n n1 n2 n3 n4 n5 : Nat}
    (h1 : c.mul fs F32.half n = (hi, n1)) (h2 : c.clamp c.defTrmSpeed F32.zero hi n1 = (f, n2))
    (h3 : c.div f fs n2 = (inc, n3)) (h4 : c.clampUnit c.defTrmDepth n3 = (depth, n4))
    (h5 : c.mul depth k n4 = (amp, n5)) :
    trmOsc c w k fs n = ((depth, ⟨F32.zero, f, inc, amp, w, false, false⟩), n5) := by
  unfold trmOsc
  rw [Dp.run_bind_of (setFreq_run h1 h2 h3), setDepth_run h4 h5]
  rfl

theorem trmInitial_run {c : Cfg} {w : Wave} {fs depth : F32} {o : Osc} {n n1 : Nat}
    (h : trmOsc c w F32.half fs n = ((depth, o), n1)) :
    trmInitial c w fs n = (⟨true, fs, o, depth, F32.zero⟩, n1) := by
  unfold trmInitial
  rw [Dp.run_bind_of h]
  rfl

theorem trhInitial_run {c : Cfg} {fs depth : F32} {o : Osc} {k : TrhCoef} {n n1 n2 : Nat}
    (h1 : trmOsc c .sine Config.trhDepthScale fs n = ((depth, o), n1)) (h2 : trhCoefs c fs n1 = (k, n2)) :
    trhInitial c fs n = (⟨true, fs, o, depth, F32.zero, k, TrhChan.zero, TrhChan.zero⟩, n2) := by
  unfold trhInitial
  rw [Dp.run_bind_of h1]
  show (trhCoefs c fs >>= _ : Dp _) n1 = _
  rw [Dp.run_bind_of h2]
  rfl

/-- The amplitude that a depth setter derives draws nothing (R231). -/
theorem depthAmp_gives (c : Cfg) {v : F32} (hv : F32.inUnit v = true) (n : Nat) :
    (∃ a, c.mul v F32.half n = (a, n)) ∧ ∃ a, c.mul v Config.trhDepthScale n = (a, n) := by
  obtain ⟨a, ha, -⟩ := mul_inUnit c (k := F32.half) hv (by decide) (by decide) n
  obtain ⟨b, hb, -⟩ := mul_inUnit c (k := Config.trhDepthScale) hv (by decide) (by decide) n
  exact ⟨⟨a, ha⟩, b, hb⟩

/-- R249: one of the cutoff coefficients, step by step. -/
theorem opCoefClamped_eq (c : Cfg) (fc fs : F32) (n : Nat) :
    let hi := c.mul c.opFcMaxFrac fs n
    let fc' := c.clamp fc c.opFcMin hi.1 hi.2
    let t := c.mul F32.twoPi fc'.1 fc'.2
    let t' := c.div t.1 fs t.2
    opCoefClamped c fc fs n = c.sub F32.one (c.exp (F32.neg t'.1)) t'.2 := by
  intro hi fc' t t'
  exact opCoefClamped_run (run_pair hi) (run_pair fc') (run_pair t) (run_pair t') (run_pair _)

/-- R148: the clamps of a design, step by step. -/
theorem bqClamps_eq (c : Cfg) (fc q gdb fs : F32) (n : Nat) :
    let hi := c.mul c.bqFcMaxFrac fs n
    let fc' := c.clamp fc c.bqFcMin hi.1 hi.2
    let q' := c.clamp q c.bqQMin c.bqQMax fc'.2
    let g' := c.clamp gdb c.bqGainMinDb c.bqGainMaxDb q'.2
    bqClamps c fc q gdb fs n = ((fc'.1, q'.1, g'.1), g'.2) := by
  intro hi fc' q' g'
  exact bqClamps_run (run_pair hi) (run_pair fc') (run_pair q') (run_pair g')

/-- Settles O22: the steps of R231 and R249, for each tremolo. -/
theorem initTremolos : Obligations.InitTremolos := by
  unfold Obligations.InitTremolos
  intro s hfin hlt c cutoff band aLo aHi aEqhp aEqlp ls pk1 pk2
  obtain ⟨-, -, hspeed, hdepth, -⟩ := Config.cfg.def_finite
  have hrate := (admits_init (i := .trsInit) rfl hfin hlt).validRate rfl
  obtain ⟨hi, f, inc, hhi, hf, hinc, -⟩ := setFreq_steps hrate hspeed s.draws
  have hd := clampUnit_run Config.cfg (F32.not_isNaN_of_finite hdepth) s.draws
  obtain ⟨⟨a5, h5⟩, a125, h125⟩ := depthAmp_gives Config.cfg (inUnit_unitClamped
    (F32.not_isNaN_of_finite (Config.cfg.flush_finite hdepth))) s.draws
  have hosc (w : Wave) := trmOsc_run (w := w) hhi hf hinc hd h5
  refine ⟨hi, f, inc, a5, a125, _, hhi, hf, hinc, rfl, h5, h125, ?_, ?_, ?_⟩
  · rw [exec_init_run (i := .trsInit) rfl rfl hfin hlt, Dp.run_bind_of (trmInitial_run (hosc .sine))]
    rfl
  · rw [exec_init_run (i := .trqInit) rfl rfl hfin hlt, Dp.run_bind_of (trmInitial_run (hosc .rsquare))]
    rfl
  · have hcoefs : trhCoefs c s.f0 s.draws =
        (⟨aLo.1, aHi.1, aEqhp.1, aEqlp.1, ls.1, pk1.1, pk2.1⟩, pk2.2) :=
      trhCoefs_run (opCoefClamped_eq c _ _ _) (opCoefClamped_eq c _ _ _) (opCoefClamped_eq c _ _ _)
        (opCoefClamped_eq c _ _ _) (shelfClamped_run (bqClamps_eq c _ _ _ _ _) (run_pair ls))
        (peakClamped_run (bqClamps_eq c _ _ _ _ _) (run_pair pk1))
        (peakClamped_run (bqClamps_eq c _ _ _ _ _) (run_pair pk2))
    clear_value aLo aHi aEqhp aEqlp ls pk1 pk2
    rw [exec_init_run (i := .trhInit) rfl rfl hfin hlt,
      Dp.run_bind_of (trhInitial_run (trmOsc_run hhi hf hinc hd h125) hcoefs)]
    rfl

/-! The reverbs. -/

/-- The nine defaults through their setters' clamps (R9, R272, R273). -/
def defaultParams (c : Cfg) : RvParams :=
  { mix := F32.unitClamped (c.flush c.defRvMix)
    decay := F32.unitClamped (c.flush c.defRvDecay)
    diffusion := F32.unitClamped (c.flush c.defRvDiffusion)
    predelay := F32.unitClamped (c.flush c.defRvPredelay)
    inhc := F32.unitClamped (c.flush c.defRvInputHc)
    tankhc := F32.unitClamped (c.flush c.defRvTankHc)
    spos := posMap c.defRvModSpeedPos
    dpos := posMap c.defRvModDepthPos
    shpos := posMap c.defRvModShapePos }

theorem rvDefaults_run (c : Cfg) (n : Nat) : rvDefaults c n = (defaultParams c, n) := by
  obtain ⟨-, -, -, -, h1, h2, h3, h4, h5, h6⟩ := c.def_finite
  have hrun {v : F32} (h : F32.isFinite v = true) := clampUnit_run c (F32.not_isNaN_of_finite h) n
  unfold rvDefaults
  rw [Dp.run_bind_of (hrun h1), Dp.run_bind_of (hrun h2), Dp.run_bind_of (hrun h3), Dp.run_bind_of (hrun h4),
    Dp.run_bind_of (hrun h5), Dp.run_bind_of (hrun h6)]
  rfl

theorem defaultParams_inRange (c : Cfg) : (defaultParams c).InRange := by
  obtain ⟨-, -, -, -, h1, h2, h3, h4, h5, h6⟩ := c.def_finite
  have hunit {v : F32} (h : F32.isFinite v = true) :=
    inUnit_unitClamped (F32.not_isNaN_of_finite (c.flush_finite h))
  exact ⟨hunit h1, hunit h2, hunit h3, hunit h4, hunit h5, hunit h6⟩

theorem rvpInitial_run (c : Cfg) (fs : F32) (n : Nat) :
    rvpInitial c fs n =
      ({ init := true, fs := fs, p := defaultParams c,
         sigma := c.plate.apply (c.plate.init fs) (platePP c (defaultParams c)) }, n) := by
  unfold rvpInitial
  rw [Dp.run_bind_of (rvDefaults_run c n)]
  rfl

theorem rvhInitial_run {c : Cfg} {fs q hi f inc : F32} {n n1 n2 n3 n4 : Nat}
    (h1 : c.mul (defaultParams c).predelay (F32.ofNat c.rvhPredelayMax) n = (q, n1))
    (h2 : c.mul fs F32.half n1 = (hi, n2))
    (h3 : c.clamp (c.rvhSpeedTable (defaultParams c).spos) F32.zero hi n2 = (f, n3))
    (h4 : c.div f fs n3 = (inc, n4)) :
    rvhInitial c fs n =
      ({ init := true, fs := fs, p := defaultParams c, pre := Line.zero, pd := F32.roundEvenNat q,
         ap0 := Line.zero, ap1 := Line.zero, ln := Eight.all Line.zero, z := Eight.all F32.zero,
         g := c.rvhDecayMap (defaultParams c).decay, ad := c.rvhHcMap (defaultParams c).tankhc,
         o := ⟨F32.zero, f, inc, F32.one, .triangle, false, false⟩ }, n4) := by
  unfold rvhInitial
  rw [Dp.run_bind_of (rvDefaults_run c n), Dp.run_bind_of (hallPd_run h1),
    Dp.run_bind_of (setFreq_run h2 h3 h4)]
  rfl

theorem rvsInitial_run {c : Cfg} {fs g : F32} {n n1 : Nat}
    (h : c.clamp (defaultParams c).decay F32.zero c.rvsDecayMax n = (g, n1)) :
    rvsInitial c fs n =
      ({ init := true, fs := fs, p := defaultParams c, wg := Line.zero, da0 := Line.zero, da1 := Line.zero,
         da2 := Line.zero, da3 := Line.zero, z := F32.zero, g := g }, n1) := by
  unfold rvsInitial springGain
  rw [Dp.run_bind_of (rvDefaults_run c n), Dp.run_bind_of h]
  rfl

/-- Settles O23: the nine defaults, and what each reverb derives from them. -/
theorem initReverbs : Obligations.InitReverbs := by
  unfold Obligations.InitReverbs
  intro s hfin hlt
  have hrate := (admits_init (i := .rvhInit) rfl hfin hlt).validRate rfl
  have hp := defaultParams_inRange Config.cfg
  obtain ⟨q, hq, -⟩ := hallPd_run_inRange Config.cfg hp.predelay s.draws
  obtain ⟨hi, f, inc, hhi, hf, hinc, -⟩ :=
    setFreq_steps hrate (Config.cfg.rvhSpeed_range (defaultParams Config.cfg).spos).1 s.draws
  obtain ⟨g, hg, -⟩ := springGain_within Config.cfg hp.decay s.draws
  refine ⟨defaultParams Config.cfg, q, hi, f, inc, g, rfl, hq, hhi, hf, hinc, hg, ?_, ?_, ?_⟩
  · rw [exec_init_run (i := .rvpInit) rfl rfl hfin hlt, Dp.run_bind_of (rvpInitial_run _ _ _)]
    rfl
  · rw [exec_init_run (i := .rvhInit) rfl rfl hfin hlt, Dp.run_bind_of (rvhInitial_run hq hhi hf hinc)]
    rfl
  · rw [exec_init_run (i := .rvsInit) rfl rfl hfin hlt, Dp.run_bind_of (rvsInitial_run hg)]
    rfl

end Sys2Proof.Machine
end

section
/-! What every step keeps (10_state.md R51, R55; 41_oscillator.md R184, R185; 42_delay.md R200 to R204): the
parameters, the delay times and the oscillators in range, unit by unit through its moves. -/

namespace Sys2Proof.Machine

/-! Parameters. -/

/-- An advance changes the phase and the flags alone (R184). -/
theorem advance_frame (c : Cfg) (o : Osc) (n : Nat) :
    ∃ p eoc eorh, (advance c o n).1 = { o with phase := p, eoc := eoc, eorh := eorh } := by
  cases hle : c.le F32.one (c.add o.phase o.inc n).1 with
  | true => exact ⟨_, _, _, by rw [advance_run_wrap (run_pair _) hle (run_pair _)]⟩
  | false => exact ⟨_, _, _, by rw [advance_run_stay (run_pair _) hle]⟩

theorem advance_amp (c : Cfg) (o : Osc) (n : Nat) : (advance c o n).1.amp = o.amp := by
  obtain ⟨p, eoc, eorh, h⟩ := advance_frame c o n
  rw [h]

theorem LfoMove.amp_inUnit {u u' : LfoUnit} (h : LfoMove u u') (hu : F32.inUnit u.o.amp = true) :
    F32.inUnit u'.o.amp = true := by
  cases h with
  | keep | clear | freq | wave => exact hu
  | init => exact (by decide : F32.inUnit F32.one = true)
  | process => rw [advance_amp]; exact hu
  | amp _ hv => exact hv

theorem DlyMove.fb_inUnit {u u' : DlyUnit} (h : DlyMove u u') (hu : F32.inUnit u.fb = true) :
    F32.inUnit u'.fb = true := by
  cases h with
  | keep | process | clear | time => exact hu
  | init => exact yields_clampUnit Config.cfg Config.cfg.def_finite.2.1 _
  | feedback _ hv => exact hv

/-- The depth that an `INIT` of a tremolo sets (R231). -/
theorem yields_trmOsc (c : Cfg) (w : Wave) (k fs : F32) :
    Yields (trmOsc c w k fs) fun r => F32.inUnit r.1 = true :=
  .bind_any fun _ n => (yields_setDepth c _ k c.def_finite.2.2.2.1 n).1

theorem TrmMove.depth_inUnit {w : Wave} {u u' : TrmUnit} (h : TrmMove w u u')
    (hu : F32.inUnit u.depth = true) : F32.inUnit u'.depth = true := by
  cases h with
  | keep | process | speed => exact hu
  | init => exact yields_trmOsc Config.cfg w F32.half _ _
  | depth _ hv => exact hv

theorem TrhMove.depth_inUnit {u u' : TrhUnit} (h : TrhMove u u') (hu : F32.inUnit u.depth = true) :
    F32.inUnit u'.depth = true := by
  cases h with
  | keep | process | speed => exact hu
  | init => exact yields_trmOsc Config.cfg .sine Config.trhDepthScale _ _
  | depth _ hv => exact hv

theorem RvParams.Move.inRange {p p' : RvParams} (h : p.Move p') (hp : p.InRange) : p'.InRange := by
  cases h with
  | mix hv => exact { hp with mix := hv }
  | decay hv => exact { hp with decay := hv }
  | diffusion hv => exact { hp with diffusion := hv }
  | predelay hv => exact { hp with predelay := hv }
  | inhc hv => exact { hp with inhc := hv }
  | tankhc hv => exact { hp with tankhc := hv }
  | spos | dpos | shpos => exact { hp with }

theorem RvpMove.inRange {u u' : RvpUnit} (h : RvpMove u u') (hu : u.p.InRange) : u'.p.InRange := by
  cases h with
  | keep | signal => exact hu
  | init _ n =>
    rw [rvDefaults_run]
    exact defaultParams_inRange _
  | params _ hp => exact hp.inRange hu

/-- What a Hall's parameters and derived values satisfy (R312, R316, R318). -/
structure HallInRange (u : RvhUnit) : Prop where
  p : u.p.InRange
  pd : u.pd ≤ Config.cfg.rvhPredelayMax
  g : F32.le F32.zero u.g = true ∧ F32.lt u.g F32.one = true
  ad : u.init = true → F32.lt F32.zero u.ad = true ∧ F32.le u.ad F32.one = true

theorem hallPd_le {v : F32} (hv : F32.inUnit v = true) (n : Nat) :
    (hallPd Config.cfg v n).1 ≤ Config.cfg.rvhPredelayMax := by
  obtain ⟨q, hq, hle⟩ := hallPd_run_inRange Config.cfg hv n
  rw [hallPd_run hq]
  exact hle

theorem rvhInitial_inRange (fs : F32) (n : Nat) : HallInRange (rvhInitial Config.cfg fs n).1 := by
  have hp := defaultParams_inRange Config.cfg
  obtain ⟨q, hq, hle⟩ := hallPd_run_inRange Config.cfg hp.predelay n
  rw [rvhInitial_run hq (run_pair _) (run_pair _) (run_pair _)]
  exact ⟨hp, hle, Config.cfg.rvhDecayMap_range _ hp.decay, fun _ => Config.cfg.rvhHcMap_range _ hp.tankhc⟩

theorem RvhMove.inRange {u u' : RvhUnit} (h : RvhMove u u') (hu : HallInRange u) : HallInRange u' := by
  cases h with
  | keep => exact hu
  | process | clear => exact ⟨hu.p, hu.pd, hu.g, hu.ad⟩
  | init hfs n => exact rvhInitial_inRange _ _
  | params _ hp => exact ⟨hp.inRange hu.p, hu.pd, hu.g, hu.ad⟩
  | decay _ hv => exact ⟨{ hu.p with decay := hv }, hu.pd, Config.cfg.rvhDecayMap_range _ hv, hu.ad⟩
  | predelay _ hv n => exact ⟨{ hu.p with predelay := hv }, hallPd_le hv n, hu.g, hu.ad⟩
  | tankhc _ hv => exact ⟨{ hu.p with tankhc := hv }, hu.pd, hu.g, fun _ => Config.cfg.rvhHcMap_range _ hv⟩
  | speed => exact ⟨{ hu.p with }, hu.pd, hu.g, hu.ad⟩

/-- What a Spring's parameters and its gain satisfy (R354). -/
structure SpringInRange (u : RvsUnit) : Prop where
  p : u.p.InRange
  g : F32.within F32.zero u.g Config.cfg.rvsDecayMax = true

theorem springGain_range {v : F32} (hv : F32.inUnit v = true) (n : Nat) :
    F32.within F32.zero (springGain Config.cfg v n).1 Config.cfg.rvsDecayMax = true := by
  obtain ⟨g, hg, hw⟩ := springGain_within Config.cfg hv n
  rw [springGain, hg]
  exact hw

theorem RvsMove.inRange {u u' : RvsUnit} (h : RvsMove u u') (hu : SpringInRange u) : SpringInRange u' := by
  cases h with
  | keep => exact hu
  | process | clear => exact ⟨hu.p, hu.g⟩
  | init fs n =>
    have hp := defaultParams_inRange Config.cfg
    obtain ⟨g, hg, hw⟩ := springGain_within Config.cfg hp.decay n
    rw [rvsInitial_run hg]
    exact ⟨hp, hw⟩
  | params _ hp => exact ⟨hp.inRange hu.p, hu.g⟩
  | decay _ hv n => exact ⟨{ hu.p with decay := hv }, springGain_range hv n⟩

theorem blank_inRange : RvParams.blank.InRange :=
  ⟨by decide, by decide, by decide, by decide, by decide, by decide⟩

theorem springGain_zero : F32.within F32.zero F32.zero Config.cfg.rvsDecayMax = true := by
  obtain ⟨hz, hn, h0⟩ := F32.lt_elim Config.cfg.rvsDecayMax_range.1
  exact F32.within_intro hz hz hn le_rfl h0.le

/-- The blank parameters and gains are in range (log entry 3). -/
theorem paramsInRange_reset : ParamsInRange State.reset where
  amp := by decide
  fb := by decide
  trs := by decide
  trq := by decide
  trh := by decide
  rvp := blank_inRange
  rvh := blank_inRange
  rvs := blank_inRange
  pd := Nat.zero_le _
  hallG := by decide
  hallAd := fun h => absurd h (by decide)
  springG := springGain_zero

/-- Settles O56: each unit's moves keep its parameters in range. -/
theorem paramsInRangeKept : Obligations.ParamsInRangeKept := by
  unfold Obligations.ParamsInRangeKept
  intro s t hs h
  have h0 := paramsInRange_reset
  have hhall : HallInRange t.rvh := unit_step_keeps (get := State.rvh) (fun _ _ h => h .rvh)
    ⟨h0.rvh, h0.pd, h0.hallG, h0.hallAd⟩ (fun _ _ _ => rvhMove_exec) (fun _ _ hm => hm.inRange)
    ⟨hs.rvh, hs.pd, hs.hallG, hs.hallAd⟩ h
  have hspring : SpringInRange t.rvs := unit_step_keeps (get := State.rvs) (fun _ _ h => h .rvs)
    ⟨h0.rvs, h0.springG⟩ (fun _ _ _ => rvsMove_exec) (fun _ _ hm => hm.inRange) ⟨hs.rvs, hs.springG⟩ h
  exact
    { amp := unit_step_keeps (get := State.lfo) (P := fun u => F32.inUnit u.o.amp = true) (fun _ _ h => h .lfo)
        h0.amp (fun _ _ _ => lfoMove_exec) (fun _ _ hm => hm.amp_inUnit) hs.amp h
      fb := unit_step_keeps (get := State.dly) (P := fun u => F32.inUnit u.fb = true) (fun _ _ h => h .dly)
        h0.fb (fun _ _ _ => dlyMove_exec) (fun _ _ hm => hm.fb_inUnit) hs.fb h
      trs := unit_step_keeps (get := State.trs) (P := fun u => F32.inUnit u.depth = true)
        (fun _ _ h => h .trs) h0.trs (fun _ _ _ => trsMove_exec) (fun _ _ hm => hm.depth_inUnit) hs.trs h
      trq := unit_step_keeps (get := State.trq) (P := fun u => F32.inUnit u.depth = true)
        (fun _ _ h => h .trq) h0.trq (fun _ _ _ => trqMove_exec) (fun _ _ hm => hm.depth_inUnit) hs.trq h
      trh := unit_step_keeps (get := State.trh) (P := fun u => F32.inUnit u.depth = true)
        (fun _ _ h => h .trh) h0.trh (fun _ _ _ => trhMove_exec) (fun _ _ hm => hm.depth_inUnit) hs.trh h
      rvp := unit_step_keeps (get := State.rvp) (P := fun u => u.p.InRange)
        (fun _ _ h => h .rvp) h0.rvp (fun _ _ _ => rvpMove_exec) (fun _ _ hm => hm.inRange) hs.rvp h
      rvh := hhall.p
      rvs := hspring.p
      pd := hhall.pd
      hallG := hhall.g
      hallAd := hhall.ad
      springG := hspring.g }

/-! Delay times. -/

/-- The delay times of an initialised DLY (R200, R202, R204). -/
structure DlyTimes (u : DlyUnit) : Prop where
  dmax : u.dmax = F32.ofNat Config.cfg.maxDelaySamples
  dlo : F32.within F32.one u.dlo u.dmax = true
  dt : F32.within u.dlo u.dt u.dmax = true
  dc : F32.within F32.zero u.dc F32.twoPow25 = true

theorem delayInRange_iff (s : State) : DelayInRange s ↔ (s.dly.init = true → DlyTimes s.dly) :=
  ⟨fun h hu => ⟨h.dmax hu, h.dlo hu, h.dt hu, h.dc hu⟩,
    fun h => ⟨fun hu => (h hu).dmax, fun hu => (h hu).dlo, fun hu => (h hu).dt, fun hu => (h hu).dc⟩⟩

/-- `Dmax` lies between one and 2^24. -/
theorem dmax_bounds : F32.isFinite (F32.ofNat Config.cfg.maxDelaySamples) = true ∧
    F32.value F32.one ≤ F32.value (F32.ofNat Config.cfg.maxDelaySamples) ∧
    F32.value (F32.ofNat Config.cfg.maxDelaySamples) ≤ 2 ^ 173 := by
  obtain ⟨hs, hv, h1⟩ := dmax_solid
  have hrange := Config.cfg.maxDelay_range
  exact ⟨F32.isSolid_finite hs, h1, by rw [hv]; omega⟩

/-- A time between the bounds lies between one and 2^24. -/
theorem time_bounds {dlo dt : F32} (hlo : F32.within F32.one dlo (F32.ofNat Config.cfg.maxDelaySamples) = true)
    (hdt : F32.within dlo dt (F32.ofNat Config.cfg.maxDelaySamples) = true) :
    F32.isFinite dt = true ∧ 2 ^ 149 ≤ F32.value dt ∧ F32.value dt ≤ 2 ^ 173 := by
  obtain ⟨hmf, -, hm2⟩ := dmax_bounds
  obtain ⟨-, -, -, hlo1, -⟩ := F32.within_elim hlo
  obtain ⟨-, htn, hmn, ht1, ht2⟩ := F32.within_elim hdt
  have h1 := hlo1.trans ht1
  refine ⟨F32.finite_of_within (lo := F32.one) (by decide) hmf
    (F32.within_intro (by decide) htn hmn h1 ht2), ?_, ht2.trans hm2⟩
  rwa [F32.value_one] at h1

theorem twoPow25_value : F32.value F32.twoPow25 = 2 ^ 174 := by decide

theorem DlyTimes.dt_bounds {u : DlyUnit} (h : DlyTimes u) :
    F32.isFinite u.dt = true ∧ 2 ^ 149 ≤ F32.value u.dt ∧ F32.value u.dt ≤ 2 ^ 173 :=
  time_bounds (h.dmax ▸ h.dlo) (h.dmax ▸ h.dt)

theorem DlyTimes.dc_bounds {u : DlyUnit} (h : DlyTimes u) :
    F32.isFinite u.dc = true ∧ 0 ≤ F32.value u.dc ∧ F32.value u.dc ≤ 2 ^ 174 := by
  obtain ⟨-, -, -, h0, h1⟩ := F32.within_elim h.dc
  rw [F32.value_zero] at h0
  rw [twoPow25_value] at h1
  exact ⟨F32.finite_of_within (by decide) (by decide) h.dc, h0, h1⟩

/-- The smoothing step and the read delay from delay times in range (R202): nothing is drawn, the smoothed time
stays in its interval, and the read delay lies between one and `Dmax`. -/
theorem dlyDelay_inRange {u : DlyUnit} (h : DlyTimes u) (n : Nat) :
    ∃ dc D, dlyDelay Config.cfg u n = ((dc, D), n) ∧ F32.within F32.zero dc F32.twoPow25 = true ∧
      F32.within F32.one D (F32.ofNat Config.cfg.maxDelaySamples) = true := by
  obtain ⟨htf, ht1, ht2⟩ := h.dt_bounds
  obtain ⟨hcf, hc1, hc2⟩ := h.dc_bounds
  obtain ⟨hmf, hm1, -⟩ := dmax_bounds
  obtain ⟨d, p, r, hd, hp, hr, hrf, hr0, hr1⟩ := dlySmooth_inRange Config.cfg htf hcf ht1 ht2 hc1 hc2 n
  have hrn := F32.not_isNaN_of_finite hrf
  obtain ⟨hD, hw⟩ := clamp_run_within Config.cfg hrn hmf le_rfl
    (F32.within_intro (by decide) (by decide) (F32.not_isNaN_of_finite hmf) le_rfl hm1) n
  refine ⟨r, _, dlyDelay_run hd hp hr (by rw [h.dmax]; exact hD),
    F32.within_intro (by decide) hrn (by decide) ?_ ?_, hw⟩
  · rwa [F32.value_zero]
  · rwa [twoPow25_value]

theorem dlyInitial_times {fs : F32} (hfs : F32.isFinite fs = true) (n : Nat) :
    DlyTimes (dlyInitial Config.cfg fs n).1 := by
  obtain ⟨m, dlo, dt, -, -, -, hlow, htw, hrun⟩ := dlyInitial_steps hfs n
  obtain ⟨hf, h1, h2⟩ := time_bounds hlow htw
  rw [hrun]
  have hc : F32.within F32.zero dt F32.twoPow25 = true :=
    F32.within_intro (by decide) (F32.not_isNaN_of_finite hf) (by decide)
      (by rw [F32.value_zero]; omega) (by rw [twoPow25_value]; omega)
  exact ⟨rfl, hlow, htw, hc⟩

/-- A new target time is brought between the bounds (R204). -/
theorem DlyTimes.clamp_run {u : DlyUnit} (h : DlyTimes u) {v : F32} (hv : F32.isFinite v = true) (n : Nat) :
    Config.cfg.clamp v u.dlo u.dmax n = (F32.clamped (Config.cfg.flush v) u.dlo u.dmax, n) ∧
      F32.within u.dlo (F32.clamped (Config.cfg.flush v) u.dlo u.dmax) u.dmax = true := by
  obtain ⟨-, hlon, hmn, h1, h2⟩ := F32.within_elim h.dlo
  refine clamp_run_within Config.cfg (F32.not_isNaN_of_finite hv) ?_ h1
    (F32.within_intro hlon hlon hmn le_rfl h2) n
  rw [h.dmax]
  exact dmax_bounds.1

theorem DlyMove.times {u u' : DlyUnit} (h : DlyMove u u') (hu : u.init = true → DlyTimes u) :
    u'.init = true → DlyTimes u' := by
  intro hinit
  cases h with
  | keep => exact hu hinit
  | clear hi | feedback hi => exact ⟨(hu hi).dmax, (hu hi).dlo, (hu hi).dt, (hu hi).dc⟩
  | init hfs n => exact dlyInitial_times hfs.1 n
  | process hi n =>
    obtain ⟨dc, D, hrun, hdc, -⟩ := dlyDelay_inRange (hu hi) n
    rw [hrun]
    exact ⟨(hu hi).dmax, (hu hi).dlo, (hu hi).dt, hdc⟩
  | time hi hv n =>
    obtain ⟨hrun, hw⟩ := (hu hi).clamp_run hv n
    rw [hrun]
    exact ⟨(hu hi).dmax, (hu hi).dlo, hw, (hu hi).dc⟩

theorem delayInRange_reset : DelayInRange State.reset :=
  (delayInRange_iff _).2 fun h => absurd h (by decide)

/-- Settles O57: DLY's moves keep its times in range, `PROCESS` by the bounds of the smoothing step. -/
theorem delayInRangeKept : Obligations.DelayInRangeKept := by
  unfold Obligations.DelayInRangeKept
  intro s t hs h
  exact (delayInRange_iff t).2 (unit_step_keeps (get := State.dly) (P := fun u => u.init = true → DlyTimes u)
    (fun _ _ h => h .dly) ((delayInRange_iff _).1 delayInRange_reset) (fun _ _ _ => dlyMove_exec)
    (fun _ _ hm => hm.times) ((delayInRange_iff s).1 hs) h)

/-! Oscillators. -/

/-- The oscillator of an initialised unit, at the unit's rate, of a waveform that satisfies `W` (R51). -/
structure OscOf (W : Wave → Prop) (fs : F32) (o : Osc) : Prop where
  rate : validRate fs
  range : o.InRange
  wave : W o.wave

theorem OscOf.advance {W : Wave → Prop} {fs : F32} {o : Osc} (h : OscOf W fs o) (n : Nat) :
    OscOf W fs (advance Config.cfg o n).1 := by
  obtain ⟨p, eoc, eorh, hrun, hr⟩ := advance_inRange Config.cfg h.range n
  rw [hrun]
  exact ⟨h.rate, hr, h.wave⟩

theorem OscOf.setFreq {W : Wave → Prop} {fs : F32} {o : Osc} (h : OscOf W fs o) {hz : F32}
    (hhz : F32.isFinite hz = true) (n : Nat) : OscOf W fs (setFreq Config.cfg o hz fs n).1 := by
  obtain ⟨hi, f, inc, hhi, hf, hinc, -, hw⟩ := setFreq_steps h.rate hhz n
  rw [setFreq_run hhi hf hinc]
  exact ⟨h.rate, ⟨h.range.phase, hw⟩, h.wave⟩

theorem OscOf.setAmp {W : Wave → Prop} {fs : F32} {o : Osc} (h : OscOf W fs o) (a : F32) :
    OscOf W fs { o with amp := a } :=
  ⟨h.rate, ⟨h.range.phase, h.range.inc⟩, h.wave⟩

/-- A fresh oscillator (R51, R190). -/
theorem OscOf.initial {W : Wave → Prop} {fs : F32} (hfs : validRate fs) {w : Wave} (hw : W w) :
    OscOf W fs { Osc.initial with wave := w } :=
  ⟨hfs, ⟨(by decide : F32.le F32.zero F32.zero = true ∧ F32.lt F32.zero F32.one = true),
    (by decide : F32.within F32.zero F32.zero F32.threeQuarters = true)⟩, hw⟩

/-- The oscillator that a tremolo's `INIT` sets (R235, R240, R250). -/
theorem trmOsc_oscOf {fs : F32} (hfs : validRate fs) (w : Wave) (k : F32) (n : Nat) :
    OscOf (· = w) fs (trmOsc Config.cfg w k fs n).1.2 :=
  ((OscOf.initial (W := (· = w)) hfs rfl).setFreq Config.cfg.def_finite.2.2.1 n).setAmp _

theorem LfoMove.oscOf {u u' : LfoUnit} (h : LfoMove u u')
    (hu : u.init = true → OscOf (· ≠ .triangle) u.fs u.o) :
    u'.init = true → OscOf (· ≠ .triangle) u'.fs u'.o := by
  intro hinit
  cases h with
  | keep => exact hu hinit
  | init hfs => exact OscOf.initial hfs (w := .sine) (by decide)
  | process hi n => exact (hu hi).advance n
  | clear hi =>
    have ho := hu hi
    exact ⟨ho.rate, ⟨(by decide : F32.le F32.zero F32.zero = true ∧ F32.lt F32.zero F32.one = true),
      ho.range.inc⟩, ho.wave⟩
  | freq hi hhz n => exact (hu hi).setFreq hhz n
  | amp hi => exact (hu hi).setAmp _
  | wave hi w =>
    have ho := hu hi
    refine ⟨ho.rate, ⟨ho.range.phase, ho.range.inc⟩, ?_⟩
    show waveOf w ≠ .triangle
    unfold waveOf
    split <;> decide

theorem TrmMove.oscOf {w : Wave} {u u' : TrmUnit} (h : TrmMove w u u')
    (hu : u.init = true → OscOf (· = w) u.fs u.o) : u'.init = true → OscOf (· = w) u'.fs u'.o := by
  intro hinit
  cases h with
  | keep => exact hu hinit
  | init hfs n => exact trmOsc_oscOf hfs w F32.half n
  | process hi n => exact (hu hi).advance n
  | speed hi hhz n => exact (hu hi).setFreq hhz n
  | depth hi _ a => exact (hu hi).setAmp a

theorem TrhMove.oscOf {u u' : TrhUnit} (h : TrhMove u u')
    (hu : u.init = true → OscOf (· = .sine) u.fs u.o) : u'.init = true → OscOf (· = .sine) u'.fs u'.o := by
  intro hinit
  cases h with
  | keep => exact hu hinit
  | init hfs n => exact trmOsc_oscOf hfs .sine Config.trhDepthScale n
  | process hi n => exact (hu hi).advance n
  | speed hi hhz n => exact (hu hi).setFreq hhz n
  | depth hi _ a => exact (hu hi).setAmp a

theorem RvhMove.oscOf {u u' : RvhUnit} (h : RvhMove u u')
    (hu : u.init = true → OscOf (· = .triangle) u.fs u.o ∧ u.o.amp = F32.one) :
    u'.init = true → OscOf (· = .triangle) u'.fs u'.o ∧ u'.o.amp = F32.one := by
  intro hinit
  cases h with
  | keep => exact hu hinit
  | clear hi | params hi | decay hi | predelay hi | tankhc hi => exact hu hi
  | init hfs n =>
    exact ⟨(OscOf.initial (W := (· = .triangle)) hfs rfl).setFreq (Config.cfg.rvhSpeed_range _).1 _, rfl⟩
  | process hi _ _ _ _ n => exact ⟨(hu hi).1.advance n, (advance_amp _ _ n).trans (hu hi).2⟩
  | speed hi q n => exact ⟨(hu hi).1.setFreq (Config.cfg.rvhSpeed_range q).1 n, (hu hi).2⟩

theorem oscsInRange_iff (s : State) : OscsInRange s ↔
    (s.lfo.init = true → OscOf (· ≠ .triangle) s.lfo.fs s.lfo.o) ∧
    (s.trs.init = true → OscOf (· = .sine) s.trs.fs s.trs.o) ∧
    (s.trq.init = true → OscOf (· = .rsquare) s.trq.fs s.trq.o) ∧
    (s.trh.init = true → OscOf (· = .sine) s.trh.fs s.trh.o) ∧
    (s.rvh.init = true → OscOf (· = .triangle) s.rvh.fs s.rvh.o ∧ s.rvh.o.amp = F32.one) := by
  have hiff (W : Wave → Prop) (fs : F32) (o : Osc) : OscOf W fs o ↔ validRate fs ∧ o.InRange ∧ W o.wave :=
    ⟨fun h => ⟨h.rate, h.range, h.wave⟩, fun ⟨h1, h2, h3⟩ => ⟨h1, h2, h3⟩⟩
  simp only [hiff, and_assoc]
  exact ⟨fun h => ⟨h.lfo, h.trs, h.trq, h.trh, h.rvh⟩, fun ⟨h1, h2, h3, h4, h5⟩ => ⟨h1, h2, h3, h4, h5⟩⟩

theorem oscsInRange_reset : OscsInRange State.reset :=
  ⟨fun h => absurd h (by decide), fun h => absurd h (by decide), fun h => absurd h (by decide),
    fun h => absurd h (by decide), fun h => absurd h (by decide)⟩

/-- Settles O58: each unit's moves keep its oscillator in range. -/
theorem oscsInRangeKept : Obligations.OscsInRangeKept := by
  unfold Obligations.OscsInRangeKept
  intro s t hs h
  obtain ⟨h1, h2, h3, h4, h5⟩ := (oscsInRange_iff s).1 hs
  obtain ⟨r1, r2, r3, r4, r5⟩ := (oscsInRange_iff _).1 oscsInRange_reset
  refine (oscsInRange_iff t).2 ⟨?_, ?_, ?_, ?_, ?_⟩
  · exact unit_step_keeps (get := State.lfo) (P := fun u => u.init = true → OscOf _ u.fs u.o)
      (fun _ _ h => h .lfo) r1 (fun _ _ _ => lfoMove_exec) (fun _ _ hm => hm.oscOf) h1 h
  · exact unit_step_keeps (get := State.trs) (P := fun u => u.init = true → OscOf _ u.fs u.o)
      (fun _ _ h => h .trs) r2 (fun _ _ _ => trsMove_exec) (fun _ _ hm => hm.oscOf) h2 h
  · exact unit_step_keeps (get := State.trq) (P := fun u => u.init = true → OscOf _ u.fs u.o)
      (fun _ _ h => h .trq) r3 (fun _ _ _ => trqMove_exec) (fun _ _ hm => hm.oscOf) h3 h
  · exact unit_step_keeps (get := State.trh) (P := fun u => u.init = true → OscOf _ u.fs u.o)
      (fun _ _ h => h .trh) r4 (fun _ _ _ => trhMove_exec) (fun _ _ hm => hm.oscOf) h4 h
  · exact unit_step_keeps (get := State.rvh)
      (P := fun u => u.init = true → OscOf _ u.fs u.o ∧ u.o.amp = F32.one)
      (fun _ _ h => h .rvh) r5 (fun _ _ _ => rvhMove_exec) (fun _ _ hm => hm.oscOf) h5 h

/-- Settles O54: the parts of the invariant, each at the reset state. -/
theorem invAtReset : Obligations.InvAtReset :=
  ⟨errorRecord_reset State.reset, linesCanonical_reset, paramsInRange_reset, delayInRange_reset,
    oscsInRange_reset⟩

end Sys2Proof.Machine
end

section
/-! No command stops the block (60_exceptions.md R400, 20_memory.md R90, R91): from the invariant the two rules
that read at a fractional delay read inside their lines, and every other rule completes from every state. -/

namespace Sys2Proof.Machine

/-- The outcome is a next state. -/
def Completes (o : Host.Outcome State Fault Refusal) : Prop := ∃ t, o = .next t

theorem completes_checked {i : Instr} {s : State} {r : Host.Outcome State Fault Refusal}
    (h : Passes i s → Completes r) : Completes (checked i s r) := by
  rcases checked_cases i s r with ⟨-, -, heq⟩ | ⟨-, -, heq⟩ | ⟨hinit, hfin, heq⟩ <;> rw [heq]
  · exact ⟨_, rfl⟩
  · exact ⟨_, rfl⟩
  · exact h ⟨hinit, hfin⟩

theorem completes_perform {i : Instr} {s : State} {p : Dp State} (hx : exec i s = checked i s (perform s p)) :
    Completes (exec i s) :=
  hx ▸ completes_checked fun _ => ⟨_, rfl⟩

theorem completes_initialise {i : Instr} {s : State} {p : F32 → Dp State}
    (hx : exec i s = checked i s (initialise i s p)) : Completes (exec i s) := by
  rw [hx]
  refine completes_checked fun _ => ?_
  rcases initialise_cases i s p with ⟨-, heq⟩ | ⟨-, heq⟩ <;> rw [heq]
  · exact ⟨_, rfl⟩
  · exact ⟨_, rfl⟩

/-- A rule with line reads completes where its computation finds every read in range. -/
theorem completes_line {α : Type} {i : Instr} {s : State} {q : Dp (Option α)} {f : α → State}
    (hx : exec i s = checked i s (performLine s do let r ← q; pure (r.map f)))
    (h : Passes i s → ∃ a n, q s.draws = (some a, n)) : Completes (exec i s) := by
  rw [hx]
  refine completes_checked fun hpass => ?_
  obtain ⟨a, n, hq⟩ := h hpass
  rw [performLine, Dp.run_bind_of hq]
  exact ⟨_, rfl⟩

/-- A sample of the delay, its times in range, reads inside both lines (R91, R202). -/
theorem dlyStep_reads {u : DlyUnit} (h : DlyTimes u) (x y : F32) (n : Nat) :
    ∃ a m, dlyStep Config.cfg u x y n = (some a, m) := by
  obtain ⟨dc, D, hdelay, -, hD⟩ := dlyDelay_inRange h n
  obtain ⟨-, hDn, -, h1, h2⟩ := F32.within_elim hD
  have hmax := Config.cfg.maxDelay_range
  have hread : lineReadable (dlyLen Config.cfg) D = true :=
    lineReadable_of_within (m := Config.cfg.maxDelaySamples) (by omega) le_rfl h1 hDn h2
  exact ⟨_, _, dlyStep_run hdelay hread (run_pair _) (run_pair _) (run_pair _) (run_pair _) (run_pair _)
    (run_pair _)⟩

/-- Every read of the Hall lies inside its line (R90, R91). -/
theorem hallReadable_of {pd : Nat} {ds : Eight F32} (hpd : pd ≤ Config.cfg.rvhPredelayMax)
    (h : ∀ j, lineReadable (hallLen Config.cfg j) (ds.get j) = true) :
    hallReadable Config.cfg pd ds = true := by
  rw [hallReadable, Bool.and_eq_true, decide_eq_true_eq, List.all_eq_true]
  exact ⟨hpd, fun j _ => h j⟩

/-- A sample of the Hall, its oscillator and pre-delay in range, reads inside every line (R90, R91, R331). -/
theorem rvhStep_reads {u : RvhUnit} (ho : u.o.InRange) (hw : u.o.wave = .triangle) (ha : u.o.amp = F32.one)
    (hpd : u.pd ≤ Config.cfg.rvhPredelayMax) (x y : F32) (n : Nat) :
    ∃ a m, rvhStep Config.cfg u x y n = (some a, m) := by
  generalize hx : monoInput Config.cfg x y n = X
  generalize h0 : allpass Config.cfg (Config.cfg.rvhApLen 0) u.ap0 (Config.cfg.rvhApCoef 0)
    (hallPredelay Config.cfg u X.1) X.2 = A
  generalize h1 : allpass Config.cfg (Config.cfg.rvhApLen 1) u.ap1 (Config.cfg.rvhApCoef 1) A.1.1 A.2 = B
  obtain ⟨ds, hds, hr⟩ := hallDelays_inRange Config.cfg ho hw ha B.2
  generalize hn : hallNetwork Config.cfg u ds B.1.1 B.2 = N
  exact ⟨_, _, rvhStep_run (hx.trans (run_pair X)) (h0.trans (run_pair₂ A)) (h1.trans (run_pair₂ B)) hds
    (hallReadable_of hpd fun j => (hr j).2) (hn.trans rfl) (run_pair _) (run_pair _)⟩

/-- What the two rules with line reads need of the block (R200, R312, R313). -/
structure ReadsInRange (s : State) : Prop where
  times : s.dly.init = true → DlyTimes s.dly
  osc : s.rvh.init = true → s.rvh.o.InRange ∧ s.rvh.o.wave = .triangle ∧ s.rvh.o.amp = F32.one
  pd : s.rvh.pd ≤ Config.cfg.rvhPredelayMax

theorem Inv.reads {s : State} (h : Inv s) : ReadsInRange s :=
  ⟨(delayInRange_iff s).1 h.delay, fun hu => (h.oscs.rvh hu).2, h.params.pd⟩

theorem exec_completes (i : Instr) {s : State} (h : ReadsInRange s) : Completes (exec i s) := by
  cases i with
  | bqInit | opInit | lfoInit | dlyInit | trsInit | trqInit | trhInit | rvpInit | rvhInit | rvsInit =>
    exact completes_initialise rfl
  | dlyProcess =>
    exact completes_line rfl fun hpass =>
      dlyStep_reads (h.times (hpass.1.resolve_left (by decide))) _ _ _
  | rvhProcess =>
    refine completes_line rfl fun hpass => ?_
    obtain ⟨ho, hw, ha⟩ := h.osc (hpass.1.resolve_left (by decide))
    exact rvhStep_reads ho hw ha h.pd _ _ _
  | _ => exact completes_perform rfl

/-- The outcome is a next state with `rest` still pending. -/
def CompletesWith (rest : List HostEvent) (o : Host.Outcome State Fault Refusal) : Prop :=
  ∃ t, o = .next t ∧ t.pending = rest

theorem execute_completes (w : Word) {s : State} (h : ReadsInRange s) :
    CompletesWith s.pending (execute w s) := by
  rcases execute_cases w s with ⟨c, -, heq⟩ | ⟨i, -, heq⟩ <;> rw [heq]
  · exact ⟨_, rfl, State.raise_pending _ _ _⟩
  · obtain ⟨t, ht⟩ := exec_completes i h
    obtain ⟨-, -, -, hp, -⟩ := (commandFrame i s t ht).1
    exact ⟨t, ht, hp.symm⟩

/-- An admitted access completes (R80 to R86). -/
theorem hostAccess_completes {a : Access} (hadm : a.admitted = true) {s : State} (h : ReadsInRange s) :
    CompletesWith s.pending (hostAccess execute a s) := by
  cases hk : a.kind with
  | read => exact ⟨_, hostAccess_read hadm hk s, rfl⟩
  | write =>
    rw [hostAccess_write hadm hk s]
    rcases memWrite_cases execute a.off.toNat a.data s with
      ⟨-, heq⟩ | ⟨-, heq⟩ | ⟨-, heq⟩ | ⟨-, heq⟩ | ⟨-, heq⟩ <;> rw [heq]
    · exact execute_completes a.data h
    · exact ⟨_, rfl, rfl⟩
    · exact ⟨_, rfl, rfl⟩
    · exact ⟨_, rfl, rfl⟩
    · exact ⟨_, rfl, State.raise_pending _ _ _⟩

theorem step_completes {s : State} (h : ReadsInRange s)
    (hadm : ∀ e, s.pending.head? = some e → eventAdmitted e = true) :
    CompletesWith s.pending.tail (step s) := by
  rcases step_cases s with ⟨hp, heq⟩ | ⟨e, rest, hp, heq⟩ <;> rw [heq, hp]
  · exact ⟨s, rfl, hp⟩
  · have he := hadm e (by rw [hp]; rfl)
    have hreads : ReadsInRange { s with pending := rest } := ⟨h.times, h.osc, h.pd⟩
    cases e with
    | access a => exact hostAccess_completes he hreads
    | concurrent a b => exact absurd he (by rw [eventAdmitted]; decide)
    | blockReset => exact ⟨_, rfl, rfl⟩

/-- Every step keeps the invariant. -/
theorem inv_step {s t : State} (hs : Inv s) (h : step s = .next t) : Inv t :=
  ⟨errorRecordKept s t hs.errors h, linesCanonicalKept s t hs.lines h, paramsInRangeKept s t hs.params h,
    delayInRangeKept s t hs.delay h, oscsInRangeKept s t hs.oscs h⟩

/-- Settles O59: the step completes as its reads are in range, and each part of the invariant is kept. -/
theorem admittedStepCompletes : Obligations.AdmittedStepCompletes := by
  unfold Obligations.AdmittedStepCompletes
  intro s hs hadm
  obtain ⟨t, ht, hp⟩ := step_completes hs.reads hadm
  exact ⟨t, ht, inv_step hs ht, hp⟩

theorem run_succ_of_step {M : Host.Core} {s t : M.State} {n : Nat} (h : M.step s = .next t) :
    M.run (n + 1) s = M.run n t := by
  rw [Host.Core.run, h]

/-- A run of admitted events from the invariant. -/
theorem admitted_run (n : Nat) {s : State} (hs : Inv s) (hadm : ∀ e ∈ s.pending, eventAdmitted e = true) :
    ∃ t, Sys2Proof.core.run n s = .next t ∧ Inv t ∧ t.pending = s.pending.drop n := by
  induction n generalizing s with
  | zero => exact ⟨s, rfl, hs, rfl⟩
  | succ n ih =>
    obtain ⟨t, ht, hi, hp⟩ := admittedStepCompletes s hs fun e he => hadm e (List.mem_of_head? he)
    obtain ⟨t', ht', hi', hp'⟩ := ih hi fun e he => hadm e (List.mem_of_mem_tail (hp ▸ he))
    refine ⟨t', ?_, hi', ?_⟩
    · exact (run_succ_of_step (M := Sys2Proof.core) ht).trans ht'
    · rw [hp', hp, List.drop_tail]

/-- Settles O60: reset satisfies the invariant whatever is pending, and the run is an induction on its length. -/
theorem admittedRunNeverStops : Obligations.AdmittedRunNeverStops := by
  unfold Obligations.AdmittedRunNeverStops
  intro events n hadm
  have h := invAtReset
  exact admitted_run n (s := { State.reset with pending := events })
    ⟨{ h.errors with }, { h.lines with }, { h.params with }, { h.delay with }, { h.oscs with }⟩ hadm

end Sys2Proof.Machine
end

section
/-! The setters of the oscillators, the tremolos, the delay and the reverbs (41_oscillator.md R193 to R195,
42_delay.md R204, R205, 43_tremolo.md R231, R232, 44_reverb.md R271 to R305): each operand through its clamp, and
what is derived from it. -/

namespace Sys2Proof.Machine

/-- The clamp of an operand to [0,1] (R272). -/
theorem clampUnit_operand {s : State} (hfin : F32.isFinite s.arg0 = true) :
    Config.cfg.clampUnit s.f0 s.draws = (F32.unitClamped s.f0, s.draws) := by
  have hrun := clampUnit_run Config.cfg (v := s.f0)
    (F32.not_isNaN_of_finite (Config.cfg.flush_finite hfin)) s.draws
  rwa [show Config.cfg.flush s.f0 = s.f0 from Config.cfg.flush_flush s.arg0] at hrun

/-- A setter that clamps its operand to [0,1] and stores it. -/
theorem exec_clampSetter {i : Instr} {s : State} {f : F32 → State}
    (hx : exec i s = checked i s (perform s do let v ← Config.cfg.clampUnit s.f0; pure (f v)))
    (hinit : unitInit i.unit s = true) (hn : f32Operands i = 1) (hfin : F32.isFinite s.arg0 = true) :
    exec i s = .next { f (F32.unitClamped s.f0) with draws := s.draws } := by
  exact exec_run_bind hx hinit (operandsFinite_one hn hfin) (clampUnit_operand hfin) rfl

/-- As `exec_clampSetter`, where a second computation on the clamped value draws nothing. -/
theorem exec_clampSetter_bind {α : Type} {i : Instr} {s : State} {q : F32 → Dp α} {f : F32 → α → State} {a : α}
    (hx : exec i s = checked i s (perform s do
      let v ← Config.cfg.clampUnit s.f0
      let a ← q v
      pure (f v a)))
    (hinit : unitInit i.unit s = true) (hn : f32Operands i = 1) (hfin : F32.isFinite s.arg0 = true)
    (hq : q (F32.unitClamped s.f0) s.draws = (a, s.draws)) :
    exec i s = .next { f (F32.unitClamped s.f0) a with draws := s.draws } := by
  rw [exec_run hx hinit (operandsFinite_one hn hfin), Dp.run_bind_of (clampUnit_operand hfin), Dp.run_bind_of hq]
  rfl

theorem inUnit_operand {s : State} (hfin : F32.isFinite s.arg0 = true) :
    F32.inUnit (F32.unitClamped s.f0) = true :=
  inUnit_unitClamped (F32.not_isNaN_of_finite (Config.cfg.flush_finite hfin))

/-- Settles O38: the clamp of R194, and the two waveforms of R195. -/
theorem lfoSetters : Obligations.LfoSetters := by
  unfold Obligations.LfoSetters
  intro s hinit
  have hwave : exec .lfoSetWaveform s =
      .next { s with lfo := { s.lfo with o := { s.lfo.o with wave := waveOf s.arg0 } } } :=
    exec_run_pure (i := .lfoSetWaveform) rfl hinit (operandsFinite_zero rfl s)
  refine ⟨fun hfin => exec_clampSetter (i := .lfoSetAmp) rfl hinit rfl hfin, fun h => ?_, fun h => ?_⟩
  · rw [hwave, waveOf, if_pos h]
  · rw [hwave, waveOf, if_neg h]

/-- A frequency setter on any unit's oscillator: the steps of R185, at the unit's rate. -/
theorem exec_freqSetter {i : Instr} {s : State} {o : Osc} {fs : F32} {f : Osc → State}
    (hx : exec i s = checked i s (perform s do let o ← setFreq Config.cfg o s.f0 fs; pure (f o)))
    (hinit : unitInit i.unit s = true) (hn : f32Operands i = 1) (hfin : F32.isFinite s.arg0 = true)
    (hfs : validRate fs) :
    ∃ hi q inc, (Config.cfg.mul fs F32.half).Gives s.draws hi ∧
      (Config.cfg.clamp s.f0 F32.zero hi).Gives s.draws q ∧ (Config.cfg.div q fs).Gives s.draws inc ∧
      F32.within F32.zero q hi = true ∧
      exec i s = .next { f { o with freq := q, inc := inc } with draws := s.draws } := by
  obtain ⟨hi, q, inc, hhi, hq, hinc, hw, -⟩ := setFreq_steps hfs (Config.cfg.flush_finite hfin) s.draws
  exact ⟨hi, q, inc, hhi, hq, hinc, hw,
    exec_run_bind hx hinit (operandsFinite_one hn hfin) (setFreq_run hhi hq hinc) rfl⟩

/-- Settles O39: the four setters are one rule on four oscillators. -/
theorem frequencySetters : Obligations.FrequencySetters := by
  unfold Obligations.FrequencySetters
  intro s hfin
  exact ⟨fun hinit hfs => exec_freqSetter (i := .lfoSetFreq) rfl hinit rfl hfin hfs,
    fun hinit hfs => exec_freqSetter (i := .trsSetSpeed) rfl hinit rfl hfin hfs,
    fun hinit hfs => exec_freqSetter (i := .trqSetSpeed) rfl hinit rfl hfin hfs,
    fun hinit hfs => exec_freqSetter (i := .trhSetSpeed) rfl hinit rfl hfin hfs⟩

/-- Settles O40: the clamp of R231, and the amplitude by the unit's factor, its product drawing nothing. -/
theorem depthSetters : Obligations.DepthSetters := by
  unfold Obligations.DepthSetters
  intro s hfin
  have hd := clampUnit_operand hfin
  obtain ⟨⟨a, ha⟩, b, hb⟩ := depthAmp_gives Config.cfg (inUnit_operand hfin) s.draws
  refine ⟨fun hinit => ⟨a, ha, ?_⟩, fun hinit => ⟨a, ha, ?_⟩, fun hinit => ⟨b, hb, ?_⟩⟩
  · exact exec_run_bind (i := .trsSetDepth) rfl hinit (operandsFinite_one rfl hfin) (setDepth_run hd ha) rfl
  · exact exec_run_bind (i := .trqSetDepth) rfl hinit (operandsFinite_one rfl hfin) (setDepth_run hd ha) rfl
  · exact exec_run_bind (i := .trhSetDepth) rfl hinit (operandsFinite_one rfl hfin) (setDepth_run hd hb) rfl

/-- Settles O41: the target through the bounds in range, the feedback through the unit clamp. -/
theorem dlySetters : Obligations.DlySetters := by
  unfold Obligations.DlySetters
  intro s hinit hfin hrange
  have htimes := (delayInRange_iff s).1 hrange hinit
  have hclamp := (htimes.clamp_run (Config.cfg.flush_finite hfin) s.draws).1
  rw [Config.cfg.flush_flush] at hclamp
  exact ⟨exec_run_bind (i := .dlySetDelayTime) rfl hinit (operandsFinite_one rfl hfin) hclamp rfl,
    exec_clampSetter (i := .dlySetFeedback) rfl hinit rfl hfin⟩

/-! The reverbs. -/

/-- R273, on the operand's word. -/
theorem posMap_operand (w : Word) :
    posMap w.toNat = if w = 0#32 then 0 else if w = 2#32 then 2 else 1 := by
  have h0 : w = 0#32 ↔ w.toNat = 0 := by rw [BitVec.toNat_eq]; rfl
  have h2 : w = 2#32 ↔ w.toNat = 2 := by rw [BitVec.toNat_eq]; rfl
  simp only [h0, h2]
  unfold posMap
  split
  · rename_i h
    rw [if_pos h]
  · rename_i h
    rw [if_neg (by omega), if_pos h]
  · rename_i hn0 hn2
    rw [if_neg hn0, if_neg hn2]

/-- Settles O42: each setter of RVP is a clamp or a position, and `rvpApply` is the call of `PLATE.apply`. -/
theorem rvpSetters : Obligations.RvpSetters := by
  unfold Obligations.RvpSetters
  intro s hinit apply pos v
  have hpos : posMap s.arg0.toNat = pos := posMap_operand s.arg0
  refine ⟨fun hfin => ⟨?_, ?_, ?_, ?_, ?_, ?_⟩, ?_, ?_, ?_⟩
  · exact exec_clampSetter (i := .rvpSetMix) rfl hinit rfl hfin
  · exact exec_clampSetter (i := .rvpSetDecay) rfl hinit rfl hfin
  · exact exec_clampSetter (i := .rvpSetDiffusion) rfl hinit rfl hfin
  · exact exec_clampSetter (i := .rvpSetPredelay) rfl hinit rfl hfin
  · exact exec_clampSetter (i := .rvpSetInputHighcut) rfl hinit rfl hfin
  · exact exec_clampSetter (i := .rvpSetTankHighcut) rfl hinit rfl hfin
  · rw [← hpos]
    exact exec_run_pure (i := .rvpSetTankModSpeed) rfl hinit (operandsFinite_zero rfl s)
  · rw [← hpos]
    exact exec_run_pure (i := .rvpSetTankModDepth) rfl hinit (operandsFinite_zero rfl s)
  · rw [← hpos]
    exact exec_run_pure (i := .rvpSetTankModShape) rfl hinit (operandsFinite_zero rfl s)

/-- Settles O43: clamps and positions, with the pre-delay and the oscillator's frequency derived. -/
theorem rvhSetters : Obligations.RvhSetters := by
  unfold Obligations.RvhSetters
  intro s hinit pos v u
  have hpos : posMap s.arg0.toNat = pos := posMap_operand s.arg0
  refine ⟨fun hfin => ⟨?_, ?_, ?_, ?predelay, ?_, ?_⟩, fun hfs => ?speed, ?_, ?_⟩
  case predelay =>
    obtain ⟨q, hq, hle⟩ := hallPd_run_inRange Config.cfg (inUnit_operand hfin) s.draws
    exact ⟨q, hq, hle, exec_clampSetter_bind (i := .rvhSetPredelay) rfl hinit rfl hfin (hallPd_run hq)⟩
  case speed =>
    obtain ⟨hi, f, inc, hhi, hf, hinc, -⟩ := setFreq_steps hfs (Config.cfg.rvhSpeed_range pos).1 s.draws
    refine ⟨hi, f, inc, hhi, hf, hinc, ?_⟩
    rw [← hpos] at hf ⊢
    exact exec_run_bind (i := .rvhSetTankModSpeed) rfl hinit (operandsFinite_zero rfl s)
      (setFreq_run hhi hf hinc) rfl
  · exact exec_clampSetter (i := .rvhSetMix) rfl hinit rfl hfin
  · exact exec_clampSetter (i := .rvhSetDecay) rfl hinit rfl hfin
  · exact exec_clampSetter (i := .rvhSetDiffusion) rfl hinit rfl hfin
  · exact exec_clampSetter (i := .rvhSetInputHighcut) rfl hinit rfl hfin
  · exact exec_clampSetter (i := .rvhSetTankHighcut) rfl hinit rfl hfin
  · rw [← hpos]
    exact exec_run_pure (i := .rvhSetTankModDepth) rfl hinit (operandsFinite_zero rfl s)
  · rw [← hpos]
    exact exec_run_pure (i := .rvhSetTankModShape) rfl hinit (operandsFinite_zero rfl s)

/-- Settles O44: clamps and positions, with the gain derived from the decay. -/
theorem rvsSetters : Obligations.RvsSetters := by
  unfold Obligations.RvsSetters
  intro s hinit pos v u
  have hpos : posMap s.arg0.toNat = pos := posMap_operand s.arg0
  refine ⟨fun hfin => ⟨?_, ?decay, ?_, ?_, ?_, ?_⟩, ?_, ?_, ?_⟩
  case decay =>
    obtain ⟨g, hg, hw⟩ := springGain_within Config.cfg (inUnit_operand hfin) s.draws
    exact ⟨g, hg, hw, exec_clampSetter_bind (i := .rvsSetDecay) rfl hinit rfl hfin hg⟩
  · exact exec_clampSetter (i := .rvsSetMix) rfl hinit rfl hfin
  · exact exec_clampSetter (i := .rvsSetDiffusion) rfl hinit rfl hfin
  · exact exec_clampSetter (i := .rvsSetPredelay) rfl hinit rfl hfin
  · exact exec_clampSetter (i := .rvsSetInputHighcut) rfl hinit rfl hfin
  · exact exec_clampSetter (i := .rvsSetTankHighcut) rfl hinit rfl hfin
  · rw [← hpos]
    exact exec_run_pure (i := .rvsSetTankModSpeed) rfl hinit (operandsFinite_zero rfl s)
  · rw [← hpos]
    exact exec_run_pure (i := .rvsSetTankModDepth) rfl hinit (operandsFinite_zero rfl s)
  · rw [← hpos]
    exact exec_run_pure (i := .rvsSetTankModShape) rfl hinit (operandsFinite_zero rfl s)

end Sys2Proof.Machine
end

section
/-! Silence (44_reverb.md R276): on inputs +0 and signal memory +0 the Hall and the Spring compute zeros only. A
product may be −0, but every sample stored is a sum or difference whose first operand is +0, hence +0. -/

namespace Sys2Proof

/-! Arithmetic with zeros. -/

theorem F32.isZero_cases {x : F32} (h : F32.isZero x = true) : x = 0#32 ∨ x = 0x80000000#32 := by
  have hm : x.toNat % 2 ^ 31 = 0 := by simpa [F32.isZero, F32.mag] using h
  have hlt := x.isLt
  rcases (by omega : x.toNat = 0 ∨ x.toNat = 2 ^ 31) with h0 | h1
  · exact .inl (BitVec.eq_of_toNat_eq h0)
  · exact .inr (BitVec.eq_of_toNat_eq h1)

theorem F32.isZero_of_value {x : F32} (h : F32.value x = 0) : F32.isZero x = true := by
  have hu : F32.units x = 0 := by
    have := F32.value_of_nonneg h.ge
    omega
  have h0 : F32.unitsOfMag 0 = 0 := by decide
  rw [F32.isZero, beq_iff_eq, ← F32.unitsOfMag_strictMono.injective.eq_iff, h0, ← F32.units_eq, hu]

theorem F32.value_of_isZero {x : F32} (h : F32.isZero x = true) : F32.value x = 0 := by
  rcases F32.isZero_cases h with rfl | rfl <;> decide

theorem F32.finite_of_isZero {x : F32} (h : F32.isZero x = true) : F32.isFinite x = true := by
  rcases F32.isZero_cases h with rfl | rfl <;> decide

theorem Cfg.flush_isZero (c : Cfg) {x : F32} (h : F32.isZero x = true) : c.flush x = x :=
  c.flush_solid (by rcases F32.isZero_cases h with rfl | rfl <;> decide)

/-- +0 plus a zero is +0. -/
theorem Cfg.posZero_add (c : Cfg) {z : F32} (h : F32.isZero z = true) (n : Nat) :
    c.add F32.zero z n = (F32.zero, n) := by
  have hz : F32.isSolid z = true := by rcases F32.isZero_cases h with rfl | rfl <;> decide
  exact c.finish_solid (op := F32.add) (by decide) hz (by decide)
    (by rcases F32.isZero_cases h with rfl | rfl <;> decide)

/-- +0 minus a zero is +0. -/
theorem Cfg.posZero_sub (c : Cfg) {z : F32} (h : F32.isZero z = true) (n : Nat) :
    c.sub F32.zero z n = (F32.zero, n) := by
  have hz : F32.isSolid z = true := by rcases F32.isZero_cases h with rfl | rfl <;> decide
  exact c.finish_solid (op := F32.sub) (by decide) hz (by decide)
    (by rcases F32.isZero_cases h with rfl | rfl <;> decide)

/-- A sum of two zeros is a zero. -/
theorem Cfg.add_zeros (c : Cfg) {x y : F32} (hx : F32.isZero x = true) (hy : F32.isZero y = true) (n : Nat) :
    ∃ r, c.add x y n = (r, n) ∧ F32.isZero r = true := by
  have hv : F32.value (c.flush x) + F32.value (c.flush y) = 0 := by
    rw [c.flush_isZero hx, c.flush_isZero hy, F32.value_of_isZero hx, F32.value_of_isZero hy]
    rfl
  obtain ⟨r, hr, -, h0, h1⟩ := c.add_between (lo := F32.zero) (hi := F32.zero) n (F32.finite_of_isZero hx)
    (F32.finite_of_isZero hy) (by decide) (by decide) (by rw [hv, F32.value_zero]) (by rw [hv, F32.value_zero])
  rw [F32.value_zero] at h0 h1
  exact ⟨r, hr, F32.isZero_of_value (by omega)⟩

/-- A finite value times a zero is a zero. -/
theorem Cfg.mul_isZero (c : Cfg) {x z : F32} (hx : F32.isFinite x = true) (hz : F32.isZero z = true) (n : Nat) :
    ∃ r, c.mul x z n = (r, n) ∧ F32.isZero r = true := by
  obtain ⟨r, hr, -, hv⟩ := c.mul_zero_value n hx (F32.finite_of_isZero hz) (F32.value_of_isZero hz)
  exact ⟨r, hr, F32.isZero_of_value hv⟩

theorem F32.mul_comm (x y : F32) : F32.mul x y = F32.mul y x := by
  unfold F32.mul
  rw [Bool.or_comm (F32.isNaN x), Bool.or_comm (F32.isInf x), Bool.or_comm (F32.isZero x),
    bne_comm (a := F32.sign x), Nat.mul_comm (F32.units x)]

theorem Cfg.mul_comm (c : Cfg) (x y : F32) : c.mul x y = c.mul y x := by
  rw [Cfg.mul, Cfg.mul, F32.mul_comm]

/-- A zero times a finite value is a zero. -/
theorem Cfg.isZero_mul (c : Cfg) {x z : F32} (hx : F32.isFinite x = true) (hz : F32.isZero z = true) (n : Nat) :
    ∃ r, c.mul z x n = (r, n) ∧ F32.isZero r = true :=
  c.mul_comm x z ▸ c.mul_isZero hx hz n

theorem Cfg.flush_sign (c : Cfg) (x : F32) : F32.sign (c.flush x) = F32.sign x := by
  unfold Cfg.flush F32.zeroLike
  split
  · cases F32.sign x <;> decide
  · rfl

/-- A finite value of positive sign times +0 is +0. -/
theorem Cfg.mul_pos_zero (c : Cfg) {x : F32} (hx : F32.isFinite x = true) (hs : F32.sign x = false) (n : Nat) :
    c.mul x F32.zero n = (F32.zero, n) := by
  have hx' := c.flush_finite hx
  have hz : c.flush F32.zero = F32.zero := c.flush_solid (by decide)
  have hmul : F32.mul (c.flush x) F32.zero = some F32.zero := by
    unfold F32.mul
    simp only [F32.not_isNaN_of_finite hx', F32.not_isInf_of_finite hx', c.flush_sign, hs,
      show F32.isNaN F32.zero = false by decide, show F32.isInf F32.zero = false by decide,
      show F32.sign F32.zero = false by decide, show F32.units F32.zero = 0 by decide, Nat.mul_zero,
      Bool.or_self, Bool.false_eq_true, if_false]
    decide
  rw [Cfg.mul, hz, hmul]
  show (c.flush F32.zero, n) = _
  rw [hz]

theorem F32.finite_of_le_one {x : F32} (h0 : F32.le F32.zero x = true) (h1 : F32.le x F32.one = true) :
    F32.isFinite x = true :=
  F32.finite_of_within (lo := F32.zero) (hi := F32.one) (by decide) (by decide)
    (by rw [F32.within, h0, h1]; rfl)

/-- A value strictly between two finite ones is finite. -/
theorem F32.finite_of_lt {lo x hi : F32} (hlo : F32.isFinite lo = true) (hhi : F32.isFinite hi = true)
    (h0 : F32.lt lo x = true) (h1 : F32.lt x hi = true) : F32.isFinite x = true := by
  obtain ⟨hln, hxn, h0⟩ := F32.lt_elim h0
  obtain ⟨-, hhn, h1⟩ := F32.lt_elim h1
  exact F32.finite_of_within hlo hhi (F32.within_intro hln hxn hhn h0.le h1.le)

namespace Machine

/-! The shared stages, on zeros. -/

theorem isZero_zero : F32.isZero F32.zero = true := by decide

theorem Line.hist_of_empty {l : Line} (h : l.buf = []) (n k : Nat) : l.hist n k = F32.zero := by
  rw [Line.hist, h]
  rfl

theorem Line.push_zero_of_empty {l : Line} (h : l.buf = []) (n : Nat) : (l.push n F32.zero).buf = [] := by
  rw [Line.push_buf, h]
  rfl

theorem lp1_zero (c : Cfg) {a : F32} (ha : F32.isFinite a = true) (n : Nat) :
    lp1 c F32.zero a F32.zero n = (F32.zero, n) := by
  obtain ⟨p, hp, hpz⟩ := c.mul_isZero ha isZero_zero n
  exact lp1_run (c.posZero_sub isZero_zero n) hp (c.posZero_add hpz n)

theorem allpass_zero (c : Cfg) {g : F32} (hg : F32.isFinite g = true) {l : Line} (hl : l.buf = []) (len n : Nat) :
    allpass c len l g F32.zero n = ((F32.zero, l.push (len + 1) F32.zero), n) := by
  obtain ⟨q, hq, hqz⟩ := c.mul_isZero hg isZero_zero n
  have hist := Line.hist_of_empty hl (len + 1) len
  exact allpass_run (by rw [hist]; exact hq) (c.posZero_sub hqz n) hq (by rw [hist]; exact c.posZero_add hqz n)

theorem monoInput_zero (c : Cfg) (n : Nat) : monoInput c F32.zero F32.zero n = (F32.zero, n) :=
  monoInput_run (c.posZero_add isZero_zero n)
    (c.mul_comm F32.half F32.zero ▸ c.mul_pos_zero (by decide) (by decide) n)

/-- The mix law on a zero input and a zero wet sample (R274). -/
theorem mixLaw_zero (c : Cfg) {mix wet : F32} (hm : F32.inUnit mix = true) (hw : F32.isZero wet = true) (n : Nat) :
    ∃ r, mixLaw c mix F32.zero wet n = (r, n) ∧ F32.isZero r = true := by
  obtain ⟨hmf, hm0, hm1⟩ := F32.inUnit_elim hm
  have hfm := c.flush_between (x := mix) (lo := F32.zero) (hi := F32.one) (by decide) (by decide)
    (by rw [F32.value_zero]; exact hm0) hm1
  have hone : c.flush F32.one = F32.one := c.flush_solid (by decide)
  rw [F32.value_zero] at hfm
  obtain ⟨d, hd, hdf, -⟩ := c.sub_between (lo := F32.zero) (hi := F32.one) n (x := F32.one) (by decide) hmf
    (by decide) (by decide) (by rw [hone, F32.value_zero]; omega) (by rw [hone]; omega)
  obtain ⟨p, hp, hpz⟩ := c.mul_isZero hdf isZero_zero n
  obtain ⟨q, hq, hqz⟩ := c.mul_isZero hmf hw n
  obtain ⟨r, hr, hrz⟩ := c.add_zeros hpz hqz n
  exact ⟨r, mixLaw_run hd hp hq hr, hrz⟩

/-! The Spring. -/

theorem springWet_zero (c : Cfg) (n : Nat) :
    ∃ w, springWet c F32.zero F32.zero F32.zero n = (w, n) ∧ F32.isZero w = true := by
  obtain ⟨a1, h1, hz1⟩ := c.mul_isZero (c.rvsTapGain_finite 0) isZero_zero n
  obtain ⟨a2, h2, hz2⟩ := c.mul_isZero (c.rvsTapGain_finite 1) isZero_zero n
  obtain ⟨w, hw, hwz⟩ := c.isZero_mul c.rvsOutGain_finite isZero_zero n
  exact ⟨w, springWet_run h1 (c.posZero_add hz1 n) h2 (c.posZero_add hz2 n) hw, hwz⟩

/-- Settles O35: stage by stage in the order of R350; the drive's product is +0, so the shaper's value is too. -/
theorem springSilence : Obligations.SpringSilence := by
  unfold Obligations.SpringSilence
  intro c u n hs hmix hg htanh
  have hcoef (j : Fin 4) : F32.isFinite (c.rvsApCoef j) = true :=
    F32.finite_of_lt (lo := F32.neg F32.one) (by decide) (hi := F32.one) (by decide) (c.rvsApCoef_range j).1
      (c.rvsApCoef_range j).2
  have hdrive := c.mul_pos_zero c.rvsDrive_range.1 (F32.sign_of_pos (by
    have := (F32.lt_elim c.rvsDrive_range.2).2.2
    rwa [show F32.value 0#32 = 0 by decide] at this)) n
  have hdamp : F32.isFinite c.rvsDampCoef = true := by
    obtain ⟨hz, hn, h0⟩ := F32.lt_elim c.rvsDampCoef_range.1
    exact F32.finite_of_le_one ((F32.le_iff hz hn).2 h0.le) c.rvsDampCoef_range.2
  have hmax : F32.isFinite c.rvsDecayMax = true :=
    F32.finite_of_lt (lo := F32.zero) (by decide) (hi := F32.one) (by decide) c.rvsDecayMax_range.1
      c.rvsDecayMax_range.2
  obtain ⟨r, hr, hrz⟩ := c.mul_isZero (F32.finite_of_within (by decide) hmax hg) isZero_zero n
  obtain ⟨wet, hwet, hwz⟩ := springWet_zero c n
  obtain ⟨l, hl, hlz⟩ := mixLaw_zero c hmix hwz n
  have htanh' : c.tanh F32.zero = F32.zero := htanh
  have hist (k : Nat) := Line.hist_of_empty hs.wg (c.rvsLen + 1) k
  have hrun := rvsStep_run (monoInput_zero c n) hdrive
    (by rw [htanh']; exact allpass_zero c (hcoef 0) hs.da0 _ n) (allpass_zero c (hcoef 1) hs.da1 _ n)
    (allpass_zero c (hcoef 2) hs.da2 _ n) (allpass_zero c (hcoef 3) hs.da3 _ n)
    (by rw [hist, hs.z]; exact lp1_zero c hdamp n) hr (c.posZero_add hrz n)
    (by rw [hist, hist, hist]; exact hwet) hl hl
  exact ⟨_, l, l, hrun, hlz, hlz,
    ⟨Line.push_zero_of_empty hs.wg _, Line.push_zero_of_empty hs.da0 _, Line.push_zero_of_empty hs.da1 _,
      Line.push_zero_of_empty hs.da2 _, Line.push_zero_of_empty hs.da3 _, rfl⟩, rfl, rfl⟩

/-! The Hall. -/

theorem butterfly_zero (c : Cfg) (n : Nat) : butterfly c F32.zero F32.zero n = ((F32.zero, F32.zero), n) := by
  unfold butterfly
  rw [Dp.run_bind_of (c.posZero_add isZero_zero n), Dp.run_bind_of (c.posZero_sub isZero_zero n), Dp.run_pure]

/-- The butterflies of `HAD8` at distance 1, 2 and 4, then the scaling (R317), where nothing is drawn. -/
theorem had8_run {c : Cfg} {v m : Eight F32} {v0 v1 v2 v3 v4 v5 v6 v7 w0 w1 w2 w3 w4 w5 w6 w7 x0 x1 x2 x3 x4 x5
    x6 x7 : F32} {n : Nat} (h01 : butterfly c v.a0 v.a1 n = ((v0, v1), n))
    (h23 : butterfly c v.a2 v.a3 n = ((v2, v3), n)) (h45 : butterfly c v.a4 v.a5 n = ((v4, v5), n))
    (h67 : butterfly c v.a6 v.a7 n = ((v6, v7), n)) (h02 : butterfly c v0 v2 n = ((w0, w2), n))
    (h13 : butterfly c v1 v3 n = ((w1, w3), n)) (h46 : butterfly c v4 v6 n = ((w4, w6), n))
    (h57 : butterfly c v5 v7 n = ((w5, w7), n)) (h04 : butterfly c w0 w4 n = ((x0, x4), n))
    (h15 : butterfly c w1 w5 n = ((x1, x5), n)) (h26 : butterfly c w2 w6 n = ((x2, x6), n))
    (h37 : butterfly c w3 w7 n = ((x3, x7), n))
    (hm : ∀ k, c.mul ((⟨x0, x1, x2, x3, x4, x5, x6, x7⟩ : Eight F32).get k) F32.invSqrt8 n = (m.get k, n)) :
    had8 c v n = (m, n) := by
  unfold had8
  refine (Dp.run_bind_of h01).trans ((Dp.run_bind_of h23).trans ((Dp.run_bind_of h45).trans
    ((Dp.run_bind_of h67).trans ((Dp.run_bind_of h02).trans ((Dp.run_bind_of h13).trans
      ((Dp.run_bind_of h46).trans ((Dp.run_bind_of h57).trans ((Dp.run_bind_of h04).trans
        ((Dp.run_bind_of h15).trans ((Dp.run_bind_of h26).trans ((Dp.run_bind_of h37).trans ?_)))))))))))
  exact eightDp_gives hm

theorem had8_zero (c : Cfg) (n : Nat) : had8 c (Eight.all F32.zero) n = (Eight.all F32.zero, n) := by
  have hb := butterfly_zero c n
  refine had8_run hb hb hb hb hb hb hb hb hb hb hb hb fun k => ?_
  show c.mul ((Eight.all F32.zero).get k) F32.invSqrt8 n = _
  rw [Eight.get_all, c.mul_comm]
  exact c.mul_pos_zero (by decide) (by decide) n

theorem hallTap_zero (c : Cfg) (n : Nat) :
    ∃ w, hallTap c F32.zero F32.zero F32.zero F32.zero n = (w, n) ∧ F32.isZero w = true := by
  obtain ⟨w, hw, hwz⟩ := c.isZero_mul c.rvhOutGain_finite isZero_zero n
  exact ⟨w, hallTap_run (c.posZero_sub isZero_zero n) (c.posZero_add isZero_zero n)
    (c.posZero_sub isZero_zero n) hw, hwz⟩

/-- A delay's fractional part is finite (R91). -/
theorem fraction_gives (c : Cfg) {len : Nat} {d : F32} (hlen : len ≤ 2 ^ 24)
    (hd : lineReadable len d = true) (n : Nat) :
    ∃ f, c.sub d (F32.ofNat (F32.floorNat d)) n = (f, n) ∧ F32.isFinite f = true := by
  simp only [lineReadable, Bool.and_eq_true, Bool.not_eq_true', decide_eq_true_eq] at hd
  obtain ⟨⟨hf, hsign⟩, h1, h2⟩ := hd
  have hv : F32.value d = F32.units d := by rw [F32.value, hsign]; rfl
  have hsolid : F32.isSolid d = true := F32.isSolid_of_one_le hf (by rw [F32.value_one, hv]; omega)
  have hfloor : F32.floorNat d = F32.units d / 2 ^ 149 := rfl
  obtain ⟨hi, hif, his⟩ := F32.ofNat_spec (n := F32.floorNat d) (by omega)
  obtain ⟨f, hsub, hff, -⟩ := c.sub_between (lo := F32.zero) (hi := F32.one) n hf hif (by decide) (by decide)
    (by rw [c.flush_solid hsolid, c.flush_solid his, hi, hv, F32.value_zero, hfloor]; omega)
    (by rw [c.flush_solid hsolid, c.flush_solid his, hi, hv, F32.value_one, hfloor]; omega)
  exact ⟨f, hsub, hff⟩

theorem lineRead_zero (c : Cfg) {len : Nat} {l : Line} {d : F32} (hl : l.buf = []) (hlen : len ≤ 2 ^ 24)
    (hd : lineReadable len d = true) (n : Nat) : lineRead c len l d n = (F32.zero, n) := by
  obtain ⟨f, hf, hff⟩ := fraction_gives c hlen hd n
  obtain ⟨p, hp, hpz⟩ := c.isZero_mul hff isZero_zero n
  have hist (k : Nat) := Line.hist_of_empty hl len k
  exact lineRead_run hf (by rw [hist, hist]; exact c.posZero_sub isZero_zero n) hp
    (by rw [hist]; exact c.posZero_add hpz n)

/-- The eight lines after a sample of silence. -/
def silentPush (c : Cfg) (ln : Eight Line) : Eight Line :=
  Eight.make fun k => (ln.get k).push (hallLen c k) F32.zero

theorem silentPush_empty (c : Cfg) {ln : Eight Line} (h : ∀ k, (ln.get k).buf = []) (k : Fin 8) :
    ((silentPush c ln).get k).buf = [] := by
  rw [silentPush, Eight.get_make]
  exact Line.push_zero_of_empty (h k) _

/-- The network on a diffused input +0 and empty lines (R316 to R319). -/
theorem hallNetwork_zero (c : Cfg) {u : RvhUnit} (hs : HallSilent u) (hg : F32.isFinite u.g = true)
    (had : F32.isFinite u.ad = true) {ds : Eight F32}
    (hds : ∀ k, lineReadable (hallLen c k) (ds.get k) = true) (n : Nat) :
    ∃ w, hallNetwork c u ds F32.zero n =
      ((silentPush c u.ln, Eight.all F32.zero, w, w), n) ∧ F32.isZero w = true := by
  obtain ⟨w, hw, hwz⟩ := hallTap_zero c n
  obtain ⟨r, hr, hrz⟩ := c.mul_isZero hg isZero_zero n
  refine ⟨w, hallNetwork_run (yf := Eight.all (F32.zero, F32.zero)) (m := Eight.all F32.zero)
    (eightDp_gives fun k => ?reads) (had8_zero c n) (eightDp_gives fun k => ?writes) hw hw, hwz⟩
  case reads =>
    have hlen : hallLen c k ≤ 2 ^ 24 := by
      have := (c.rvhLen_range k).2
      rw [hallLen]
      omega
    rw [Dp.run_bind_of (lineRead_zero c (hs.ln k) hlen (hds k) n), hs.z k, Dp.run_bind_of (lp1_zero c had n),
      Eight.get_all]
    rfl
  case writes =>
    rw [Eight.get_all, Dp.run_bind_of hr, Dp.run_bind_of (c.posZero_add hrz n), silentPush, Eight.get_make]
    rfl

theorem hallPredelay_zero (c : Cfg) {u : RvhUnit} (h : u.pre.buf = []) :
    hallPredelay c u F32.zero = F32.zero := by
  unfold hallPredelay
  split
  · rfl
  · exact Line.hist_of_empty h _ _

/-- A sample of a silent Hall, its values in range, stage by stage in the order of R310; the oscillator runs on,
and its delay times only choose which zeros are read. -/
theorem rvhStep_zero {u : RvhUnit} (hu : HallInRange u) (hinit : u.init = true) (ho : u.o.InRange)
    (hw : u.o.wave = .triangle) (ha : u.o.amp = F32.one) (hs : HallSilent u) (n : Nat) :
    ∃ u' r, rvhStep Config.cfg u F32.zero F32.zero n = (some (u', r, r), n) ∧ F32.isZero r = true ∧
      HallSilent u' := by
  have hcoef (j : Fin 2) : F32.isFinite (Config.cfg.rvhApCoef j) = true :=
    F32.finite_of_lt (lo := F32.neg F32.one) (by decide) (hi := F32.one) (by decide)
      (Config.cfg.rvhApCoef_range j).1 (Config.cfg.rvhApCoef_range j).2
  have hg : F32.isFinite u.g = true := by
    obtain ⟨hn, hn1, hlt⟩ := F32.lt_elim hu.g.2
    exact F32.finite_of_le_one hu.g.1 ((F32.le_iff hn hn1).2 hlt.le)
  have had : F32.isFinite u.ad = true := by
    obtain ⟨hz, hn, hlt⟩ := F32.lt_elim (hu.ad hinit).1
    exact F32.finite_of_le_one ((F32.le_iff hz hn).2 hlt.le) (hu.ad hinit).2
  obtain ⟨ds, hds, hr⟩ := hallDelays_inRange Config.cfg ho hw ha n
  obtain ⟨wet, hnet, hwz⟩ := hallNetwork_zero Config.cfg hs hg had (fun k => (hr k).2) n
  obtain ⟨r, hmix, hrz⟩ := mixLaw_zero Config.cfg hu.p.mix hwz n
  have hrun := rvhStep_run (u := u) (monoInput_zero Config.cfg n)
    (by rw [hallPredelay_zero _ hs.pre]; exact allpass_zero Config.cfg (hcoef 0) hs.ap0 _ _)
    (allpass_zero Config.cfg (hcoef 1) hs.ap1 _ _) hds (hallReadable_of hu.pd fun j => (hr j).2) hnet hmix hmix
  exact ⟨_, r, hrun, hrz, Line.push_zero_of_empty hs.pre _, Line.push_zero_of_empty hs.ap0 _,
    Line.push_zero_of_empty hs.ap1 _, silentPush_empty _ hs.ln, fun k => Eight.get_all _ k⟩

/-- Settles O34, from the invariant. -/
theorem hallSilence : Obligations.HallSilence := by
  unfold Obligations.HallSilence
  intro s hinv hinit hs h0 h1
  have hf0 : s.f0 = F32.zero := by rw [State.f0, h0]; exact Config.cfg.flush_isZero isZero_zero
  have hf1 : s.f1 = F32.zero := by rw [State.f1, h1]; exact Config.cfg.flush_isZero isZero_zero
  obtain ⟨ho, hw, ha⟩ := hinv.reads.osc hinit
  obtain ⟨u', r, hrun, hrz, hs'⟩ := rvhStep_zero
    ⟨hinv.params.rvh, hinv.params.pd, hinv.params.hallG, hinv.params.hallAd⟩ hinit ho hw ha hs s.draws
  have hexec := exec_run_line (i := .rvhProcess) rfl hinit
    (operandsFinite_two rfl (by rw [h0]; decide) (by rw [h1]; decide))
    (show rvhStep Config.cfg s.rvh s.f0 s.f1 s.draws = _ by rw [hf0, hf1]; exact hrun)
  exact ⟨_, hexec, hrz, hrz, hs', rfl⟩

end Machine
end Sys2Proof
end

section
/-! What the rules say of their results, where binary32 is exact (20_memory.md R91, 42_delay.md R202,
43_tremolo.md R236, 44_reverb.md R274), and two of their sentences that it refutes (40_filters.md R141,
41_oscillator.md R184). -/

namespace Sys2Proof

/-! Exact arithmetic. -/

theorem F32.pack_sign_mag (x : F32) : F32.pack (F32.sign x) (F32.mag x) = x := by
  have hlt : F32.mag x < 2 ^ 31 := Nat.mod_lt _ (by decide)
  exact F32.eq_of_sign_mag (F32.sign_pack _ _ hlt) (F32.mag_pack _ _ hlt)

/-- Rounding a representable value gives its encoding. -/
theorem F32.round_self {x : F32} (hf : F32.isFinite x = true) {q : Nat} (hq : 0 < q) :
    F32.roundUnits (F32.units x * q) q = F32.mag x :=
  F32.roundUnits_exact _ _ hq ((F32.isFinite_iff x).1 hf)

theorem F32.finite_of_not_isInf {x : F32} (hn : F32.isNaN x = false) (hi : F32.isInf x = false) :
    F32.isFinite x = true := by
  rw [F32.isNaN, decide_eq_false_iff_not] at hn
  rw [F32.isInf, beq_eq_false_iff_ne] at hi
  rw [F32.isFinite_iff]
  omega

theorem F32.one_mul {x : F32} (hn : F32.isNaN x = false) : F32.mul F32.one x = some x := by
  unfold F32.mul
  simp only [hn, show F32.isNaN F32.one = false by decide, show F32.isInf F32.one = false by decide,
    show F32.sign F32.one = false by decide, show F32.units F32.one = 2 ^ 149 by decide, Nat.mul_comm (2 ^ 149),
    Bool.false_or, Bool.or_self, Bool.false_eq_true, if_false, Bool.false_bne]
  cases hi : F32.isInf x with
  | true =>
    have hm : F32.mag x = 0x7F800000 := beq_iff_eq.1 hi
    have hz : F32.isZero x = false := by rw [F32.isZero, hm]; rfl
    rw [if_pos rfl, if_neg (by rw [hz]; decide), ← hm, F32.pack_sign_mag]
  | false =>
    rw [if_neg Bool.false_ne_true, F32.round_self (F32.finite_of_not_isInf hn hi) (Nat.two_pow_pos 149),
      F32.pack_sign_mag]

theorem F32.div_one {x : F32} (hf : F32.isFinite x = true) : F32.div x F32.one = some x := by
  have hr := F32.round_self hf (Nat.two_pow_pos 149)
  unfold F32.div
  simp only [F32.not_isNaN_of_finite hf, F32.not_isInf_of_finite hf, show F32.isNaN F32.one = false by decide,
    show F32.isInf F32.one = false by decide, show F32.sign F32.one = false by decide,
    show F32.isZero F32.one = false by decide, show F32.units F32.one = 2 ^ 149 by decide, hr, Bool.or_self,
    Bool.false_eq_true, if_false, Bool.bne_false, F32.pack_sign_mag]

theorem F32.units_pos {x : F32} (hz : F32.isZero x = false) : 0 < F32.units x := by
  rcases Nat.eq_zero_or_pos (F32.units x) with h | h
  · have hv : F32.value x = 0 := by rw [F32.value, h]; simp
    exact absurd (F32.isZero_of_value hv) (by rw [hz]; decide)
  · exact h

theorem F32.div_self {x : F32} (hf : F32.isFinite x = true) (hz : F32.isZero x = false) :
    F32.div x x = some F32.one := by
  have hr : F32.roundUnits (2 ^ 149 * F32.units x) (F32.units x) = F32.mag F32.one :=
    F32.roundUnits_exact 0x3F800000 _ (F32.units_pos hz) (by decide)
  unfold F32.div
  simp only [F32.not_isNaN_of_finite hf, F32.not_isInf_of_finite hf, hz, Nat.mul_comm (F32.units x), hr,
    Bool.or_self, Bool.false_eq_true, if_false, bne_self_eq_false]
  decide

/-- A nonzero finite value, packed from its value. -/
theorem F32.pack_value {x : F32} (hf : F32.isFinite x = true) (hz : F32.isZero x = false) :
    F32.pack (decide (F32.value x < 0)) (F32.roundUnits (F32.value x).natAbs 1) = x := by
  have hr := F32.round_self hf Nat.one_pos
  rw [Nat.mul_one] at hr
  have hpos := F32.units_pos hz
  have hsign : decide (F32.value x < 0) = F32.sign x := by
    rw [F32.value]
    cases F32.sign x
    · simp
    · simp
      omega
  have habs : (F32.value x).natAbs = F32.units x := by
    rw [F32.value]
    cases F32.sign x <;> simp
  rw [hsign, habs, hr, F32.pack_sign_mag]

/-- Adding a zero to a value that is neither a zero nor a NaN gives the value. -/
theorem F32.add_isZero {x z : F32} (hn : F32.isNaN x = false) (hx : F32.isZero x = false)
    (hz : F32.isZero z = true) : F32.add x z = some x ∧ F32.add z x = some x := by
  have hzf := F32.finite_of_isZero hz
  have hv := F32.value_of_isZero hz
  unfold F32.add
  simp only [hn, F32.not_isNaN_of_finite hzf, F32.not_isInf_of_finite hzf, hv, Int.add_zero, Int.zero_add,
    Bool.or_self, Bool.false_and, Bool.false_eq_true, if_false]
  cases hi : F32.isInf x with
  | true => simp
  | false =>
    have hf := F32.finite_of_not_isInf hn hi
    have h0 : F32.value x ≠ 0 := fun h => by
      rw [F32.isZero_of_value h] at hx
      cases hx
    simp only [Bool.false_eq_true, if_false, if_neg h0, F32.pack_value hf hx, and_self]

theorem F32.sub_self {x : F32} (hf : F32.isFinite x = true) : F32.sub x x = some F32.zero := by
  have hf' : F32.isFinite (F32.neg x) = true := by rw [F32.isFinite_neg]; exact hf
  unfold F32.sub F32.add
  simp only [F32.not_isNaN_of_finite hf, F32.not_isInf_of_finite hf, F32.not_isNaN_of_finite hf',
    F32.not_isInf_of_finite hf', F32.value_neg, F32.sign_neg, Int.add_right_neg, Bool.and_not_self, Bool.or_self,
    Bool.false_eq_true, if_false, if_true]
  decide

/-! The same on the datapath. -/

theorem Cfg.one_mul (c : Cfg) {x : F32} (hn : F32.isNaN x = false) (n : Nat) :
    c.mul F32.one x n = (c.flush x, n) := by
  rw [Cfg.mul, c.flush_solid (x := F32.one) (by decide), F32.one_mul (by rw [c.flush_isNaN]; exact hn)]
  show (c.flush (c.flush x), n) = _
  rw [c.flush_flush]

theorem Cfg.mul_one (c : Cfg) {x : F32} (hn : F32.isNaN x = false) (n : Nat) :
    c.mul x F32.one n = (c.flush x, n) :=
  c.mul_comm F32.one x ▸ c.one_mul hn n

theorem Cfg.div_one (c : Cfg) {x : F32} (hf : F32.isFinite x = true) (n : Nat) :
    c.div x F32.one n = (c.flush x, n) := by
  rw [Cfg.div, c.flush_solid (x := F32.one) (by decide), F32.div_one (c.flush_finite hf)]
  show (c.flush (c.flush x), n) = _
  rw [c.flush_flush]

theorem Cfg.div_self (c : Cfg) {x : F32} (hf : F32.isFinite x = true) (hz : F32.isZero (c.flush x) = false)
    (n : Nat) : c.div x x n = (F32.one, n) := by
  rw [Cfg.div, F32.div_self (c.flush_finite hf) hz]
  show (c.flush F32.one, n) = _
  rw [c.flush_solid (x := F32.one) (by decide)]

theorem Cfg.add_isZero (c : Cfg) {x z : F32} (hn : F32.isNaN x = false) (hx : F32.isZero (c.flush x) = false)
    (hz : F32.isZero z = true) (n : Nat) : c.add x z n = (c.flush x, n) ∧ c.add z x n = (c.flush x, n) := by
  obtain ⟨h1, h2⟩ := F32.add_isZero (by rw [c.flush_isNaN]; exact hn) hx hz
  rw [Cfg.add, Cfg.add, c.flush_isZero hz, h1, h2]
  show (c.flush (c.flush x), n) = _ ∧ (c.flush (c.flush x), n) = _
  rw [c.flush_flush]
  exact ⟨rfl, rfl⟩

/-- Adding a zero keeps the value of a finite operand. -/
theorem Cfg.add_isZero_value (c : Cfg) {x z : F32} (hf : F32.isFinite x = true) (hz : F32.isZero z = true)
    (n : Nat) : (∃ r, c.add x z n = (r, n) ∧ F32.value r = F32.value (c.flush x)) ∧
      ∃ r, c.add z x n = (r, n) ∧ F32.value r = F32.value (c.flush x) := by
  cases hx : F32.isZero (c.flush x) with
  | false =>
    obtain ⟨h1, h2⟩ := c.add_isZero (F32.not_isNaN_of_finite hf) hx hz n
    exact ⟨⟨_, h1, rfl⟩, _, h2, rfl⟩
  | true =>
    have hflush (y : F32) : c.add (c.flush x) y = c.add x y ∧ c.add y (c.flush x) = c.add y x := by
      simp only [Cfg.add, c.flush_flush, and_self]
    obtain ⟨r, hr, hrz⟩ := c.add_zeros hx hz n
    obtain ⟨q, hq, hqz⟩ := c.add_zeros hz hx n
    rw [(hflush z).1] at hr
    rw [(hflush z).2] at hq
    rw [F32.value_of_isZero hx]
    exact ⟨⟨r, hr, F32.value_of_isZero hrz⟩, q, hq, F32.value_of_isZero hqz⟩

theorem Cfg.sub_self (c : Cfg) {x : F32} (hf : F32.isFinite x = true) (n : Nat) :
    c.sub x x n = (F32.zero, n) := by
  rw [Cfg.sub, F32.sub_self (c.flush_finite hf)]
  show (c.flush F32.zero, n) = _
  rw [c.flush_solid (x := F32.zero) (by decide)]

theorem Cfg.one_sub_zero (c : Cfg) (n : Nat) : c.sub F32.one F32.zero n = (F32.one, n) :=
  c.finish_solid (op := F32.sub) (by decide) (by decide) (by decide) (by decide)

namespace Machine

/-! The mix law. -/

/-- Settles O47: at mix 0 the factors are 1 and 0, at mix 1 they are 0 and 1. -/
theorem mixEnds : Obligations.MixEnds := by
  unfold Obligations.MixEnds
  refine fun c x w n => ⟨fun mix => ?_, fun hx hw => ?_⟩
  · exact mixLaw_run (run_pair _) (run_pair _) (run_pair _) (run_pair _)
  · obtain ⟨q, hq, hqz⟩ := c.mul_isZero hw isZero_zero n
    obtain ⟨p, hp, hpz⟩ := c.mul_isZero hx isZero_zero n
    obtain ⟨⟨r, hr, hrv⟩, -⟩ := c.add_isZero_value (c.flush_finite hx) hqz n
    obtain ⟨-, r', hr', hrv'⟩ := c.add_isZero_value (c.flush_finite hw) hpz n
    rw [c.flush_flush] at hrv hrv'
    exact ⟨r, r',
      mixLaw_run (c.one_sub_zero n) (c.one_mul (F32.not_isNaN_of_finite hx) n) (c.mul_comm w F32.zero ▸ hq) hr,
      mixLaw_run (c.sub_self (by decide) n) (c.mul_comm x F32.zero ▸ hp) (c.one_mul (F32.not_isNaN_of_finite hw) n)
        hr', hrv, hrv'⟩

/-! The fractional read. -/

theorem floorNat_ofNat {i : Nat} (h : i < 2 ^ 24) : F32.floorNat (F32.ofNat i) = i := by
  obtain ⟨hv, -⟩ := F32.ofNat_spec h
  have hu := F32.value_of_nonneg (x := F32.ofNat i) (by rw [hv]; omega)
  rw [F32.floorNat]
  omega

/-- A read at a whole delay is the sample itself, where the difference to the next is finite (R91). -/
theorem lineRead_whole (c : Cfg) {n : Nat} {l : Line} {i : Nat} {e : F32} (k : Nat) (hi : i < 2 ^ 24)
    (he : c.sub (l.hist n (i + 1)) (l.hist n i) k = (e, k)) (hef : F32.isFinite e = true)
    (ha : F32.isFinite (l.hist n i) = true) (hz : F32.isZero (c.flush (l.hist n i)) = false) :
    lineRead c n l (F32.ofNat i) k = (c.flush (l.hist n i), k) := by
  have hfloor := floorNat_ofNat hi
  obtain ⟨p, hp, hpz⟩ := c.mul_isZero hef isZero_zero k
  exact lineRead_run (by rw [hfloor]; exact c.sub_self (F32.ofNat_spec hi).2.1 k) (by rw [hfloor]; exact he) hp
    (by rw [hfloor]; exact (c.add_isZero (F32.not_isNaN_of_finite ha) hz hpz k).1)

/-- Settles O46. -/
theorem lineStages : Obligations.LineStages := by
  unfold Obligations.LineStages
  refine ⟨fun c n l d k => ?_, fun c len l g x k => ?_, fun c n l i k e _ _ hi he hef ha hz => ?_⟩
  · intro i f a e p
    exact lineRead_run (run_pair f) (run_pair e) (run_pair p) (run_pair _)
  · intro s q t r y
    exact allpass_run (run_pair q) (run_pair t) (run_pair r) (run_pair y)
  · exact lineRead_whole c k hi he hef ha hz

/-! The tremolos at depth 0. -/

/-- The shape of a tremolo's oscillator is finite where the configuration's functions are (R181, R182). -/
theorem shape_finite {c : Cfg} {o : Osc} (h : o.InRange) {k : Nat}
    (hw : o.wave = .sine ∧ (∀ φ, F32.isFinite φ = true → F32.isFinite (c.sin φ) = true) ∨
      o.wave = .rsquare ∧ ∃ v, (shape c .rsquare o.phase).Gives k v ∧ F32.isFinite v = true) :
    ∃ v, shape c o.wave o.phase k = (v, k) ∧ F32.isFinite v = true := by
  rcases hw with ⟨hsine, hfin⟩ | ⟨hsq, v, hv, hvf⟩
  · obtain ⟨hpf, hp0, hp1⟩ := h.phase_value
    have hfp := c.flush_between (x := o.phase) (lo := F32.zero) (hi := F32.one) (by decide) (by decide)
      (by rw [F32.value_zero]; exact hp0) hp1.le
    rw [F32.value_zero, F32.value_one] at hfp
    have h2 : 0 ≤ F32.value F32.twoPi := by decide
    have hprod := mul_fraction_bounds hfp.1 hfp.2 h2 le_rfl le_rfl h2
    obtain ⟨x, hx, hxf, -⟩ := c.mul_between (x := F32.twoPi) (lo := F32.zero) (hi := F32.twoPi) k (by decide) hpf
      (by decide) (by decide)
      (by rw [c.flush_solid (x := F32.twoPi) (by decide), F32.value_zero, Int.mul_comm (F32.value F32.twoPi)]
          exact hprod.1)
      (by rw [c.flush_solid (x := F32.twoPi) (by decide), Int.mul_comm (F32.value F32.twoPi) (F32.value (c.flush _))]
          exact hprod.2)
    exact ⟨_, hsine ▸ shape_run_sine hx, hfin x hxf⟩
  · exact ⟨v, hsq ▸ hv, hvf⟩

/-- Settles O48: the LFO's output is a zero, so the gain is exactly 1. -/
theorem tremoloDepthZero : Obligations.TremoloDepthZero := by
  unfold Obligations.TremoloDepthZero
  intro c u x y k hx hy hdepth hamp ho hwave
  obtain ⟨v, hv, hvf⟩ := shape_finite ho hwave
  obtain ⟨lfo, hlfo, hlz⟩ := c.isZero_mul hvf isZero_zero k
  obtain ⟨p, eoc, eorh, hadv, -⟩ := advance_inRange c ho k
  have hone : c.flush F32.one = F32.one := c.flush_solid (by decide)
  have hgain := (c.add_isZero (x := F32.one) (by decide) (by rw [hone]; decide) hlz k).1
  rw [hone] at hgain
  have ht : c.mul u.depth F32.half k = (F32.zero, k) := by
    rw [hdepth, c.mul_comm]
    exact c.mul_pos_zero (by decide) (by decide) k
  exact ⟨_, trmStep_run (oscStep_run hv (hamp ▸ hlfo) hadv) ht (c.one_sub_zero k) hgain
    (c.mul_one (F32.not_isNaN_of_finite hx) k) (c.mul_one (F32.not_isNaN_of_finite hy) k)⟩

/-! The settled integer delay. -/

/-- The difference of two samples far from overflow is finite. -/
theorem sub_gives_finite (c : Cfg) {x y : F32} (hx : F32.mag x < 0x7E800000) (hy : F32.mag y < 0x7E800000)
    (n : Nat) : ∃ e, c.sub x y n = (e, n) ∧ F32.isFinite e = true := by
  have hbound {z : F32} (hz : F32.mag z < 0x7E800000) :
      F32.isFinite z = true ∧ - (2 ^ 200 * 2 ^ 75) ≤ F32.value (c.flush z) ∧
        F32.value (c.flush z) ≤ 2 ^ 200 * 2 ^ 75 := by
    have hu := F32.unitsOfMag_strictMono hz
    rw [← F32.units_eq, show F32.unitsOfMag 0x7E800000 = 2 ^ 200 * 2 ^ 75 by decide] at hu
    have h1 := F32.neg_units_le_value z
    have h2 := F32.value_le_units z
    refine ⟨(F32.isFinite_iff z).2 (by omega), ?_⟩
    rcases c.flush_value_cases z with h | h <;> omega
  obtain ⟨hxf, hx0, hx1⟩ := hbound hx
  obtain ⟨hyf, hy0, hy1⟩ := hbound hy
  have hlo : F32.value (0xFF000000#32 : F32) = - (2 ^ 200 * 2 ^ 76) := by decide
  have hhi : F32.value (0x7F000000#32 : F32) = 2 ^ 200 * 2 ^ 76 := by decide
  obtain ⟨e, he, hef, -⟩ := c.sub_between (lo := 0xFF000000#32) (hi := 0x7F000000#32) n hxf hyf (by decide)
    (by decide) (by rw [hlo]; omega) (by rw [hhi]; omega)
  exact ⟨e, he, hef⟩

/-- The smoothing step and the read delay of a settled whole delay (R202). -/
theorem dlyDelay_settled (c : Cfg) {u : DlyUnit} {k : Nat} (h1 : 1 ≤ k) (hk : k ≤ c.maxDelaySamples)
    (hmax : u.dmax = F32.ofNat c.maxDelaySamples) (hdt : u.dt = F32.ofNat k) (hdc : u.dc = F32.ofNat k)
    (n : Nat) : dlyDelay c u n = ((F32.ofNat k, F32.ofNat k), n) := by
  have hrange := c.maxDelay_range
  obtain ⟨hv, hf, hs⟩ := F32.ofNat_spec (n := k) (by omega)
  obtain ⟨hmv, -, hms⟩ := F32.ofNat_spec (n := c.maxDelaySamples) (by omega)
  have hn := F32.not_isNaN_of_finite hf
  have hflush := c.flush_solid hs
  have hz : F32.isZero (c.flush (F32.ofNat k)) = false := by
    rw [hflush, ← Bool.not_eq_true]
    intro h
    have := F32.value_of_isZero h
    omega
  obtain ⟨p, hp, hpz⟩ := c.mul_isZero (dlySmooth_value c).1 isZero_zero n
  have hadd := (c.add_isZero hn hz hpz n).1
  have hclamp := clamp_run c (lo := F32.one) hn (by decide) hms (by decide)
    (by rw [F32.value_one, hmv]; omega) n
  rw [hflush] at hadd hclamp
  have hself : F32.clamped (F32.ofNat k) F32.one (F32.ofNat c.maxDelaySamples) = F32.ofNat k := by
    unfold F32.clamped
    rw [if_neg, if_neg]
    · rw [F32.lt_iff (F32.not_isNaN_of_finite (F32.isSolid_finite hms)) hn]
      omega
    · rw [F32.lt_iff hn (by decide), F32.value_one]
      omega
  rw [hself] at hclamp
  exact dlyDelay_run (by rw [hdt, hdc]; exact c.sub_self hf n) hp (by rw [hdc]; exact hadd)
    (by rw [hmax]; exact hclamp)

/-- Settles O51: the smoothing step stands still, each read is the sample itself, and the feedback adds a
zero. -/
theorem integerDelay : Obligations.IntegerDelay := by
  unfold Obligations.IntegerDelay
  intro s k hinit h0 h1 hz0 hz1 hk1 hk hmax hdt hdc hfb hlines
  have hrange := Config.cfg.maxDelay_range
  have hline {l : Line} (hl : l = s.dly.lineL ∨ l = s.dly.lineR) :
      F32.isFinite (l.hist (dlyLen Config.cfg) k) = true ∧
      lineRead Config.cfg (dlyLen Config.cfg) l (F32.ofNat k) s.draws =
        (Config.cfg.flush (l.hist (dlyLen Config.cfg) k), s.draws) := by
    obtain ⟨hz, hm, hm'⟩ := hlines l hl
    have hf : F32.isFinite (l.hist (dlyLen Config.cfg) k) = true := (F32.isFinite_iff _).2 (by omega)
    obtain ⟨e, he, hef⟩ := sub_gives_finite Config.cfg hm' hm s.draws
    exact ⟨hf, lineRead_whole Config.cfg s.draws (by omega) he hef hf hz⟩
  have hstore {l : Line} (hl : l = s.dly.lineL ∨ l = s.dly.lineR) {x : F32} (hx : F32.isFinite x = true)
      (hxz : F32.isZero (Config.cfg.flush x) = false) :
      ∃ q, Config.cfg.mul s.dly.fb (Config.cfg.flush (l.hist (dlyLen Config.cfg) k)) s.draws = (q, s.draws) ∧
        Config.cfg.add (Config.cfg.flush x) q s.draws = (Config.cfg.flush x, s.draws) := by
    obtain ⟨q, hq, hqz⟩ := Config.cfg.isZero_mul (Config.cfg.flush_finite (hline hl).1) isZero_zero s.draws
    have hadd := (Config.cfg.add_isZero (F32.not_isNaN_of_finite (Config.cfg.flush_finite hx))
      (by rw [Config.cfg.flush_flush]; exact hxz) hqz s.draws).1
    rw [Config.cfg.flush_flush] at hadd
    exact ⟨q, hfb ▸ hq, hadd⟩
  obtain ⟨qL, hqL, haL⟩ := hstore (.inl rfl) h0 hz0
  obtain ⟨qR, hqR, haR⟩ := hstore (.inr rfl) h1 hz1
  have hrun := dlyStep_run (x := s.f0) (y := s.f1)
    (dlyDelay_settled Config.cfg hk1 hk hmax hdt hdc s.draws)
    (lineReadable_ofNat hk1 (by omega) (by rw [dlyLen]; omega)) (hline (.inl rfl)).2 (hline (.inr rfl)).2 hqL haL
    hqR haR
  have hexec := exec_run_line (i := .dlyProcess) rfl hinit (operandsFinite_two rfl h0 h1) hrun
  rw [hexec, ← hdc]
  rfl

/-! What binary32 refutes. -/

/-- Refutes O52: with y = 2^26 and x = 1 the difference rounds to −2^26, so the low-pass gives 0. -/
theorem not_lowPassUnityExact : ¬ Obligations.LowPassUnityExact := by
  unfold Obligations.LowPassUnityExact
  intro h
  exact absurd (h {} 0x4C800000#32 F32.one 0 (by decide) (by decide)) (by decide +kernel)

/-- The largest phase below one half, with the increment one half: their sum rounds to 1. -/
def bothFlagsOsc : Osc := { Osc.initial with phase := 0x3EFFFFFF#32, inc := F32.half }

/-- Refutes O53: the phase passes one half and wraps in one step. -/
theorem not_noStepSetsBothFlags : ¬ Obligations.NoStepSetsBothFlags := by
  unfold Obligations.NoStepSetsBothFlags
  intro h
  exact h {} bothFlagsOsc 0 (by decide) (by decide) (by decide) (by decide +kernel)

end Machine
end Sys2Proof
end

section
/-! `HAD8` on integers (45_reverb_hall.md R317): sums of small integers are exact, so the three stages of
butterflies give the rows of the Hadamard matrix. -/

namespace Sys2Proof

theorem F32.isSolid_of_mag_eq {x y : F32} (h : F32.mag x = F32.mag y) (hy : F32.isSolid y = true) :
    F32.isSolid x = true := by
  have hfin : F32.isFinite x = F32.isFinite y := by
    rw [Bool.eq_iff_iff, F32.isFinite_iff, F32.isFinite_iff, h]
  rw [F32.isSolid, hfin, F32.isSubnormal, h]
  exact hy

theorem F32.mag_ofInt (n : Int) : F32.mag (F32.ofInt n) = F32.mag (F32.ofNat n.natAbs) := by
  have h := F32.roundUnits_le (n.natAbs * 2 ^ 149) 1
  rw [F32.ofInt, F32.ofNat, F32.mag_pack _ _ (by omega), F32.mag_pack _ _ (by omega)]

theorem F32.isFinite_ofInt {n : Int} (h : n.natAbs < 2 ^ 24) : F32.isFinite (F32.ofInt n) = true := by
  rw [F32.isFinite_iff, F32.mag_ofInt, ← F32.isFinite_iff]
  exact (F32.ofNat_spec h).2.1

theorem F32.sign_ofInt (n : Int) : F32.sign (F32.ofInt n) = decide (n < 0) := by
  have h := F32.roundUnits_le (n.natAbs * 2 ^ 149) 1
  rw [F32.ofInt, F32.sign_pack _ _ (by omega)]

/-- A small integer is its value, finite and not subnormal. -/
theorem F32.ofInt_spec {n : Int} (h : n.natAbs < 2 ^ 24) :
    F32.value (F32.ofInt n) = n * 2 ^ 149 ∧ F32.isSolid (F32.ofInt n) = true := by
  obtain ⟨hv, hf, hs⟩ := F32.ofNat_spec h
  have hm := F32.mag_ofInt n
  constructor
  · have hu : (F32.units (F32.ofInt n) : Int) = n.natAbs * 2 ^ 149 := by
      rw [F32.units_eq, hm, ← F32.units_eq, ← F32.value_of_nonneg (by rw [hv]; omega), hv]
    rw [F32.value, F32.sign_ofInt, hu]
    by_cases hn : n < 0
    · rw [if_pos (decide_eq_true hn)]
      omega
    · rw [if_neg (by rwa [decide_eq_true_eq])]
      omega
  · exact F32.isSolid_of_mag_eq hm hs

/-- The sum of two values that are small integers: a zero sum is +0 unless both are −0. -/
theorem F32.add_integers {x y : F32} {a b : Int} (hx : F32.isFinite x = true) (hy : F32.isFinite y = true)
    (hxv : F32.value x = a * 2 ^ 149) (hyv : F32.value y = b * 2 ^ 149)
    (hs : a + b = 0 → (F32.sign x && F32.sign y) = false) : F32.add x y = some (F32.ofInt (a + b)) := by
  have hv : F32.value x + F32.value y = (a + b) * 2 ^ 149 := by rw [hxv, hyv, Int.add_mul]
  unfold F32.add
  simp only [F32.not_isNaN_of_finite hx, F32.not_isNaN_of_finite hy, F32.not_isInf_of_finite hx,
    F32.not_isInf_of_finite hy, hv, Bool.or_self, Bool.false_eq_true, if_false]
  by_cases h0 : a + b = 0
  · rw [if_pos (by rw [h0]; rfl), hs h0, h0]
    decide
  · have habs : ((a + b) * 2 ^ 149).natAbs = (a + b).natAbs * 2 ^ 149 := by rw [Int.natAbs_mul]; rfl
    have hsign : decide ((a + b) * 2 ^ 149 < 0) = decide (a + b < 0) := by
      rw [decide_eq_decide]
      omega
    rw [if_neg (by omega), habs, hsign, F32.ofInt]

theorem F32.add_ofInt {a b : Int} (ha : a.natAbs < 2 ^ 24) (hb : b.natAbs < 2 ^ 24) :
    F32.add (F32.ofInt a) (F32.ofInt b) = some (F32.ofInt (a + b)) := by
  obtain ⟨hav, has⟩ := F32.ofInt_spec ha
  obtain ⟨hbv, hbs⟩ := F32.ofInt_spec hb
  refine F32.add_integers (F32.isSolid_finite has) (F32.isSolid_finite hbs) hav hbv fun h0 => ?_
  rw [F32.sign_ofInt, F32.sign_ofInt, Bool.and_eq_false_iff, decide_eq_false_iff_not, decide_eq_false_iff_not]
  omega

theorem F32.sub_ofInt {a b : Int} (ha : a.natAbs < 2 ^ 24) (hb : b.natAbs < 2 ^ 24) :
    F32.sub (F32.ofInt a) (F32.ofInt b) = some (F32.ofInt (a - b)) := by
  obtain ⟨hav, has⟩ := F32.ofInt_spec ha
  obtain ⟨hbv, hbs⟩ := F32.ofInt_spec hb
  refine F32.add_integers (b := -b) (F32.isSolid_finite has)
    (by rw [F32.isFinite_neg]; exact F32.isSolid_finite hbs) hav (by rw [F32.value_neg, hbv]; ring) fun h0 => ?_
  rw [F32.sign_neg, F32.sign_ofInt, F32.sign_ofInt, show a = b by omega, Bool.and_not_self]

namespace Machine

theorem natAbs_butterfly {a b : Int} {B : Nat} (ha : a.natAbs ≤ B) (hb : b.natAbs ≤ B) :
    (a + b).natAbs ≤ 2 * B ∧ (a - b).natAbs ≤ 2 * B :=
  ⟨by omega, by omega⟩

/-- A butterfly of small integers is exact. -/
theorem butterfly_ofInt (c : Cfg) {a b : Int} {B : Nat} (ha : a.natAbs ≤ B) (hb : b.natAbs ≤ B)
    (hB : B ≤ 2 ^ 22) (n : Nat) :
    butterfly c (F32.ofInt a) (F32.ofInt b) n = ((F32.ofInt (a + b), F32.ofInt (a - b)), n) := by
  have has := (F32.ofInt_spec (n := a) (by omega)).2
  have hbs := (F32.ofInt_spec (n := b) (by omega)).2
  have hadd : c.add (F32.ofInt a) (F32.ofInt b) n = (F32.ofInt (a + b), n) :=
    c.finish_solid (op := F32.add) has hbs (F32.ofInt_spec (by omega)).2
      (F32.add_ofInt (by omega) (by omega))
  have hsub : c.sub (F32.ofInt a) (F32.ofInt b) n = (F32.ofInt (a - b), n) :=
    c.finish_solid (op := F32.sub) has hbs (F32.ofInt_spec (by omega)).2
      (F32.sub_ofInt (by omega) (by omega))
  unfold butterfly
  rw [Dp.run_bind_of hadd, Dp.run_bind_of hsub, Dp.run_pure]

/-- The three stages of butterflies of R317, on integers. -/
def hadamardStages (n : Fin 8 → Int) : Eight Int :=
  ⟨n 0 + n 1 + (n 2 + n 3) + (n 4 + n 5 + (n 6 + n 7)), n 0 - n 1 + (n 2 - n 3) + (n 4 - n 5 + (n 6 - n 7)),
    n 0 + n 1 - (n 2 + n 3) + (n 4 + n 5 - (n 6 + n 7)), n 0 - n 1 - (n 2 - n 3) + (n 4 - n 5 - (n 6 - n 7)),
    n 0 + n 1 + (n 2 + n 3) - (n 4 + n 5 + (n 6 + n 7)), n 0 - n 1 + (n 2 - n 3) - (n 4 - n 5 + (n 6 - n 7)),
    n 0 + n 1 - (n 2 + n 3) - (n 4 + n 5 - (n 6 + n 7)), n 0 - n 1 - (n 2 - n 3) - (n 4 - n 5 - (n 6 - n 7))⟩

/-- One entry of the Hadamard matrix of order 8, by the parity of R317, times its operand. -/
def hadamardTerm (n : Fin 8 → Int) (i j : Fin 8) : Int :=
  if (((List.range 3).countP fun b => i.val.testBit b && j.val.testBit b) % 2 = 0) then n j else - n j

/-- The row `i` of the matrix against `n`. -/
def hadamardRow (n : Fin 8 → Int) (i : Fin 8) : Int := ((List.finRange 8).map (hadamardTerm n i)).sum

theorem hadamardTerm_natAbs (n : Fin 8 → Int) (i j : Fin 8) : (hadamardTerm n i j).natAbs = (n j).natAbs := by
  unfold hadamardTerm
  split
  · rfl
  · exact Int.natAbs_neg _

theorem natAbs_sum_le {l : List Int} {B : Nat} (h : ∀ x ∈ l, x.natAbs ≤ B) : l.sum.natAbs ≤ l.length * B := by
  induction l with
  | nil => simp
  | cons x l ih =>
    have hx := h x List.mem_cons_self
    have hl := ih fun y hy => h y (List.mem_cons_of_mem x hy)
    rw [List.sum_cons, List.length_cons, Nat.add_mul, Nat.one_mul]
    omega

theorem hadamardRow_le {n : Fin 8 → Int} {B : Nat} (h : ∀ j, (n j).natAbs ≤ B) (i : Fin 8) :
    (hadamardRow n i).natAbs ≤ 8 * B := by
  have hterms : ∀ x ∈ (List.finRange 8).map (hadamardTerm n i), x.natAbs ≤ B := by
    intro x hx
    obtain ⟨j, -, rfl⟩ := List.mem_map.1 hx
    rw [hadamardTerm_natAbs]
    exact h j
  have hsum := natAbs_sum_le hterms
  rwa [List.length_map, List.length_finRange] at hsum

/-- The stages of butterflies compute the rows: the matrix of order 8 is that of order 2, three times over. -/
theorem hadamardRow_eq (n : Fin 8 → Int) (i : Fin 8) : hadamardRow n i = (hadamardStages n).get i := by
  have hlist : List.finRange 8 = [0, 1, 2, 3, 4, 5, 6, 7] := by decide
  have hrange : List.range 3 = [0, 1, 2] := by decide
  unfold hadamardRow hadamardTerm hadamardStages
  rw [hlist, hrange]
  fin_cases i <;>
    simp [Eight.get, List.countP_cons, Nat.testBit] <;> ring

/-- `HAD8` of integers: the stages of butterflies are exact, each doubling the bound, and the scaling is of small
integers. -/
theorem had8_ofInt (c : Cfg) {n : Fin 8 → Int} (h : ∀ j, (n j).natAbs ≤ 2 ^ 20) {m : Eight F32} {k : Nat}
    (hm : ∀ i, c.mul (F32.ofInt ((hadamardStages n).get i)) F32.invSqrt8 k = (m.get i, k)) :
    had8 c (Eight.make fun j => F32.ofInt (n j)) k = (m, k) := by
  obtain ⟨p0, p1⟩ := natAbs_butterfly (h 0) (h 1)
  obtain ⟨p2, p3⟩ := natAbs_butterfly (h 2) (h 3)
  obtain ⟨p4, p5⟩ := natAbs_butterfly (h 4) (h 5)
  obtain ⟨p6, p7⟩ := natAbs_butterfly (h 6) (h 7)
  obtain ⟨q0, q2⟩ := natAbs_butterfly p0 p2
  obtain ⟨q1, q3⟩ := natAbs_butterfly p1 p3
  obtain ⟨q4, q6⟩ := natAbs_butterfly p4 p6
  obtain ⟨q5, q7⟩ := natAbs_butterfly p5 p7
  have run {B : Nat} (hB : B ≤ 2 ^ 22) {a b : Int} (ha : a.natAbs ≤ B) (hb : b.natAbs ≤ B) :=
    butterfly_ofInt c ha hb hB k
  have b0 : 2 ^ 20 ≤ 2 ^ 22 := by decide
  have b1 : 2 * 2 ^ 20 ≤ 2 ^ 22 := by decide
  have b2 : 2 * (2 * 2 ^ 20) ≤ 2 ^ 22 := by decide
  refine had8_run (run b0 (h 0) (h 1)) (run b0 (h 2) (h 3)) (run b0 (h 4) (h 5)) (run b0 (h 6) (h 7))
    (run b1 p0 p2) (run b1 p1 p3) (run b1 p4 p6) (run b1 p5 p7) (run b2 q0 q4) (run b2 q1 q5) (run b2 q2 q6)
    (run b2 q3 q7) fun i => ?_
  rw [← hm i]
  fin_cases i <;> rfl

/-- Settles O49: exact butterflies, then the one rounded scaling of each row. -/
theorem hadamardMatrix : Obligations.HadamardMatrix := by
  unfold Obligations.HadamardMatrix
  intro c n k h
  have hmul (i : Fin 8) : ∃ m, c.mul (F32.ofInt (hadamardRow n i)) F32.invSqrt8 k = (m, k) := by
    have hle := hadamardRow_le h i
    have hfin : F32.isFinite (F32.ofInt (hadamardRow n i)) = true := F32.isFinite_ofInt (by omega)
    obtain ⟨m, hm, -⟩ := c.mul_of_finite k hfin (y := F32.invSqrt8) (by decide)
    exact ⟨m, hm⟩
  choose m hm using hmul
  refine ⟨Eight.make m, had8_ofInt c h fun i => ?_, fun i => ?_⟩
  · rw [← hadamardRow_eq, Eight.get_make]
    exact hm i
  · rw [Eight.get_make]
    exact hm i

end Machine
end Sys2Proof
end

section
/-! A 0 dB design (40_filters.md R144 to R147): with A = 1 each numerator is the denominator of the same index,
computed by the same operations but for the middle pair of the low shelf. -/

namespace Sys2Proof

/-! Operations that draw nothing. -/

theorem Cfg.flush_of_finish (c : Cfg) {o : Option F32} {r : F32} {n : Nat} (h : c.finish o n = (r, n)) :
    c.flush r = r := by
  cases o with
  | none =>
    have hn : n + 1 = n := congrArg Prod.snd h
    omega
  | some x =>
    have hr : c.flush x = r := congrArg Prod.fst h
    rw [← hr, c.flush_flush]

/-- A result that is not a NaN is drawn from nothing. -/
theorem Cfg.finish_gives (c : Cfg) {o : Option F32} {n : Nat} (h : ∃ x, o = some x ∧ F32.isNaN x = false) :
    ∃ r, c.finish o n = (r, n) ∧ F32.isNaN r = false := by
  obtain ⟨x, rfl, hx⟩ := h
  exact ⟨c.flush x, rfl, by rw [c.flush_isNaN]; exact hx⟩

theorem F32.not_isNaN_pack (s : Bool) {m : Nat} (h : m ≤ 0x7F800000) : F32.isNaN (F32.pack s m) = false := by
  rw [F32.isNaN, F32.mag_pack _ _ (by omega), decide_eq_false_iff_not]
  omega

/-- A sum with a finite operand is no NaN where the other operand is none. -/
theorem F32.add_gives {x y : F32} (hx : F32.isFinite x = true) (hy : F32.isNaN y = false) :
    ∃ r, F32.add x y = some r ∧ F32.isNaN r = false := by
  unfold F32.add
  simp only [F32.not_isNaN_of_finite hx, F32.not_isInf_of_finite hx, hy, Bool.or_self, Bool.false_eq_true, if_false]
  split
  · exact ⟨y, rfl, hy⟩
  · split
    · exact ⟨_, rfl, F32.not_isNaN_pack _ (by decide)⟩
    · exact ⟨_, rfl, F32.not_isNaN_pack _ (F32.roundUnits_le _ _)⟩

theorem F32.isNaN_neg (x : F32) : F32.isNaN (F32.neg x) = F32.isNaN x := by
  rw [F32.isNaN, F32.isNaN, F32.mag_neg]

theorem F32.isZero_neg (x : F32) : F32.isZero (F32.neg x) = F32.isZero x := by
  rw [F32.isZero, F32.isZero, F32.mag_neg]

theorem F32.isInf_neg (x : F32) : F32.isInf (F32.neg x) = F32.isInf x := by
  rw [F32.isInf, F32.isInf, F32.mag_neg]

theorem Cfg.sub_gives (c : Cfg) {x y : F32} (hx : F32.isFinite x = true) (hy : F32.isNaN y = false) (n : Nat) :
    ∃ r, c.sub x y n = (r, n) ∧ F32.isNaN r = false :=
  c.finish_gives (F32.add_gives (c.flush_finite hx) (by rw [F32.isNaN_neg, c.flush_isNaN]; exact hy))

/-- A product with a finite factor that is not a zero is no NaN where the other factor is none. -/
theorem F32.mul_gives {x y : F32} (hx : F32.isFinite x = true) (hz : F32.isZero x = false)
    (hy : F32.isNaN y = false) : ∃ r, F32.mul x y = some r ∧ F32.isNaN r = false := by
  unfold F32.mul
  simp only [F32.not_isNaN_of_finite hx, F32.not_isInf_of_finite hx, hz, hy, Bool.false_or, Bool.or_self,
    Bool.false_eq_true, if_false]
  split
  · rename_i hi
    have hzy : F32.isZero y = false := by
      rw [F32.isZero, beq_iff_eq.1 (show (F32.mag y == 0x7F800000) = true from hi)]
      rfl
    rw [hzy]
    exact ⟨_, rfl, F32.not_isNaN_pack _ (by decide)⟩
  · exact ⟨_, rfl, F32.not_isNaN_pack _ (F32.roundUnits_le _ _)⟩

/-- A quotient by a finite value that is not a zero; a zero's quotient is a zero. -/
theorem F32.div_gives {x y : F32} (hx : F32.isNaN x = false) (hy : F32.isFinite y = true)
    (hz : F32.isZero y = false) : ∃ r, F32.div x y = some r ∧ F32.isNaN r = false ∧
      (F32.isZero x = true → F32.isZero r = true) := by
  unfold F32.div
  simp only [F32.not_isNaN_of_finite hy, F32.not_isInf_of_finite hy, hz, hx, Bool.or_self, Bool.false_eq_true,
    if_false]
  split
  · rename_i hi
    refine ⟨_, rfl, F32.not_isNaN_pack _ (by decide), fun hzx => ?_⟩
    rw [F32.not_isInf_of_finite (F32.finite_of_isZero hzx)] at hi
    cases hi
  · refine ⟨_, rfl, F32.not_isNaN_pack _ (F32.roundUnits_le _ _), fun hzx => ?_⟩
    have hu : F32.units x = 0 := by
      have := F32.value_of_isZero hzx
      have := F32.value_of_nonneg (x := x) (by omega)
      omega
    have hr : F32.roundUnits (0 * 2 ^ 149) (F32.units y) = 0 := by
      have h := F32.roundUnits_exact 0 _ (F32.units_pos hz) (by decide)
      rwa [show F32.unitsOfMag 0 * F32.units y = 0 * 2 ^ 149 by rw [show F32.unitsOfMag 0 = 0 by decide]; omega]
        at h
    rw [hu, hr, F32.isZero, F32.mag_pack _ _ (by decide)]
    rfl

theorem Cfg.div_gives (c : Cfg) {x y : F32} (hx : F32.isNaN x = false) (hy : F32.isFinite y = true)
    (hz : F32.isZero (c.flush y) = false) (n : Nat) :
    ∃ r, c.div x y n = (r, n) ∧ (F32.isZero (c.flush x) = true → F32.isZero r = true) := by
  obtain ⟨r, hr, -, hrz⟩ := F32.div_gives (x := c.flush x) (by rw [c.flush_isNaN]; exact hx) (c.flush_finite hy) hz
  refine ⟨c.flush r, by rw [Cfg.div, hr]; rfl, fun h => ?_⟩
  rw [c.flush_isZero (hrz h)]
  exact hrz h

/-! Operands as the datapath reads them. -/

theorem Cfg.add_flush (c : Cfg) (x y : F32) : c.add x (c.flush y) = c.add x y := by
  rw [Cfg.add, Cfg.add, c.flush_flush]

theorem Cfg.sub_flush (c : Cfg) (x y : F32) : c.sub x (c.flush y) = c.sub x y := by
  rw [Cfg.sub, Cfg.sub, c.flush_flush]

theorem F32.isSubnormal_neg (x : F32) : F32.isSubnormal (F32.neg x) = F32.isSubnormal x := by
  rw [F32.isSubnormal, F32.isSubnormal, F32.mag_neg]

theorem Cfg.flush_neg (c : Cfg) (x : F32) : c.flush (F32.neg x) = F32.neg (c.flush x) := by
  unfold Cfg.flush F32.zeroLike
  rw [F32.isSubnormal_neg, F32.sign_neg]
  split
  · cases F32.sign x <;> decide
  · rfl

/-- Flushing makes a zero only of a smaller value than one that flushing keeps. -/
theorem Cfg.isZero_of_flush (c : Cfg) {x y : F32} (hx : c.flush x = x) (hle : F32.mag x ≤ F32.mag y)
    (hy : F32.isZero (c.flush y) = true) : F32.isZero x = true := by
  rw [F32.isZero, beq_iff_eq]
  by_contra hne
  unfold Cfg.flush at hx hy
  split at hy
  · rename_i hs
    rw [Bool.and_eq_true, F32.isSubnormal, decide_eq_true_eq] at hs
    obtain ⟨⟨-, hlt⟩, hftz⟩ := hs
    have hsub : F32.isSubnormal x = true := by
      rw [F32.isSubnormal, decide_eq_true_eq]
      omega
    rw [hsub, hftz, Bool.and_self, if_pos rfl] at hx
    have hz := F32.isZero_of_value (F32.value_zeroLike x)
    rw [hx, F32.isZero, beq_iff_eq] at hz
    exact hne hz
  · rw [F32.isZero, beq_iff_eq] at hy
    omega

/-- Twice a value is a zero only where the value is one. -/
theorem Cfg.isZero_of_double (c : Cfg) {x q : F32} {n : Nat} (hx : F32.isFinite x = true)
    (h : c.mul F32.two x n = (q, n)) (hq : F32.isZero q = true) : F32.isZero (c.flush x) = true := by
  have hf := c.flush_finite hx
  have hle := F32.le_roundUnits_of_le (p := 2 ^ 150 * F32.units (c.flush x)) (Nat.two_pow_pos 149)
    ((F32.isFinite_iff _).1 hf) (by rw [← F32.units_eq]; omega)
  have hmax := F32.roundUnits_le (2 ^ 150 * F32.units (c.flush x)) (2 ^ 149)
  have hmul : F32.mul F32.two (c.flush x) = some (F32.pack (false != F32.sign (c.flush x))
      (F32.roundUnits (2 ^ 150 * F32.units (c.flush x)) (2 ^ 149))) := by
    unfold F32.mul
    simp only [F32.not_isNaN_of_finite hf, F32.not_isInf_of_finite hf, show F32.isNaN F32.two = false by decide,
      show F32.isInf F32.two = false by decide, show F32.sign F32.two = false by decide,
      show F32.units F32.two = 2 ^ 150 by decide, Bool.or_self, Bool.false_eq_true, if_false]
  rw [Cfg.mul, c.flush_solid (x := F32.two) (by decide), hmul] at h
  have hr : c.flush _ = q := congrArg Prod.fst h
  refine c.isZero_of_flush (c.flush_flush x) ?_ (by rw [hr]; exact hq)
  rw [F32.mag_pack _ _ (by omega)]
  exact hle

theorem F32.mul_two_neg (x : F32) : F32.mul F32.two (F32.neg x) = F32.mul F32.negTwo x := by
  have hs : (F32.sign F32.two != F32.sign (F32.neg x)) = (F32.sign F32.negTwo != F32.sign x) := by
    rw [F32.sign_neg, show F32.sign F32.two = false by decide, show F32.sign F32.negTwo = true by decide]
    cases F32.sign x <;> rfl
  unfold F32.mul
  simp only [hs, F32.isNaN_neg, F32.isInf_neg, F32.isZero_neg, F32.units_eq, F32.mag_neg]
  rfl

theorem Cfg.mul_two_neg (c : Cfg) (x : F32) : c.mul F32.two (F32.neg x) = c.mul F32.negTwo x := by
  rw [Cfg.mul, Cfg.mul, c.flush_neg, c.flush_solid (x := F32.two) (by decide),
    c.flush_solid (x := F32.negTwo) (by decide), F32.mul_two_neg]

/-- A value that is no zero, minus a zero. -/
theorem Cfg.sub_isZero (c : Cfg) {x z : F32} (hn : F32.isNaN x = false) (hx : F32.isZero (c.flush x) = false)
    (hz : F32.isZero z = true) (n : Nat) : c.sub x z n = (c.flush x, n) := by
  have h := (F32.add_isZero (x := c.flush x) (z := F32.neg z) (by rw [c.flush_isNaN]; exact hn) hx
    (by rw [F32.isZero_neg]; exact hz)).1
  rw [Cfg.sub, c.flush_isZero hz, F32.sub, h]
  show (c.flush (c.flush x), n) = _
  rw [c.flush_flush]

/-- +0 minus a value that is no zero is its negation. -/
theorem Cfg.posZero_sub_of_not_isZero (c : Cfg) {x : F32} (hn : F32.isNaN x = false)
    (hx : F32.isZero (c.flush x) = false) (n : Nat) : c.sub F32.zero x n = (F32.neg (c.flush x), n) := by
  have h := (F32.add_isZero (x := F32.neg (c.flush x)) (z := F32.zero)
    (by rw [F32.isNaN_neg, c.flush_isNaN]; exact hn) (by rw [F32.isZero_neg]; exact hx) (by decide)).2
  rw [Cfg.sub, c.flush_isZero (x := F32.zero) (by decide), F32.sub, h]
  show (c.flush (F32.neg (c.flush x)), n) = _
  rw [c.flush_neg, c.flush_flush]

namespace Machine

/-- R145: the peaking design at 0 dB. -/
theorem peakDesign_zero_gain {c : Cfg} {fc q fs cw alpha sw a0 : F32} {n : Nat}
    (hpre : bqPre c fc q F32.zero fs n = ((F32.one, cw, sw, alpha), n)) (hcw : F32.isFinite cw = true)
    (halpha : F32.isFinite alpha = true) (ha0 : c.add F32.one alpha n = (a0, n))
    (hf : F32.isFinite a0 = true) (hz : F32.isZero a0 = false) :
    ∃ a1 a2, peakDesign c fc q F32.zero fs n = (⟨F32.one, a1, a2, a1, a2⟩, n) := by
  have hz' : F32.isZero (c.flush a0) = false := by rw [c.flush_of_finish ha0]; exact hz
  have hmul := c.mul_one (F32.not_isNaN_of_finite halpha) n
  have hdiv := c.div_one halpha n
  obtain ⟨b1, hb1, hb1n⟩ := c.mul_of_finite (x := F32.negTwo) n (by decide) hcw
  obtain ⟨b2, hb2, hb2n⟩ := c.sub_gives (x := F32.one) (by decide) (F32.not_isNaN_of_finite halpha) n
  rw [← c.add_flush] at ha0
  rw [← c.sub_flush] at hb2
  obtain ⟨a1, ha1, -⟩ := c.div_gives hb1n hf hz' n
  obtain ⟨a2, ha2, -⟩ := c.div_gives hb2n hf hz' n
  exact ⟨a1, a2, peakDesign_run hpre hmul ha0 hb1 hmul hb2 hdiv ha0 hb1 hdiv hb2
    (bqNorm_run (c.div_self hf hz' n) ha1 ha2 ha1 ha2)⟩

/-- The middle coefficients of the low shelf at 0 dB, before the normalisation: `2·(0 − q)` and `−2·(0 + q)`,
`q` twice the cosine. They are one value, or, where the cosine is a zero, two zeros (R146; log entry 10). -/
theorem shelf_middle {c : Cfg} {cw q : F32} {n : Nat} (hcw : F32.isFinite cw = true)
    (hq : c.mul F32.two cw n = (q, n)) (hn : F32.isNaN q = false) :
    ∃ d1 b1 d4 a1, c.sub F32.zero q n = (d1, n) ∧ c.mul F32.two d1 n = (b1, n) ∧
      c.add F32.zero q n = (d4, n) ∧ c.mul F32.negTwo d4 n = (a1, n) ∧ F32.isNaN b1 = false ∧
      F32.isNaN a1 = false ∧
      (b1 = a1 ∨ F32.isZero b1 = true ∧ F32.isZero a1 = true ∧ F32.isZero (c.flush cw) = true) := by
  have hfq : c.flush q = q := c.flush_of_finish hq
  cases hz : F32.isZero q with
  | true =>
    obtain ⟨b1, hb1, hbz⟩ := c.mul_isZero (x := F32.two) (by decide) isZero_zero n
    obtain ⟨a1, ha1, haz⟩ := c.mul_isZero (x := F32.negTwo) (by decide) isZero_zero n
    exact ⟨_, b1, _, a1, c.posZero_sub hz n, hb1, c.posZero_add hz n, ha1,
      F32.not_isNaN_of_finite (F32.finite_of_isZero hbz), F32.not_isNaN_of_finite (F32.finite_of_isZero haz),
      .inr ⟨hbz, haz, c.isZero_of_double hcw hq hz⟩⟩
  | false =>
    have hz' : F32.isZero (c.flush q) = false := by rw [hfq]; exact hz
    have hsub := c.posZero_sub_of_not_isZero hn hz' n
    have hadd := (c.add_isZero (z := F32.zero) hn hz' (by decide) n).2
    obtain ⟨a1, ha1, ha1n⟩ := c.finish_gives (n := n) (F32.mul_gives (x := c.flush F32.negTwo) (y := c.flush q)
      (c.flush_finite (by decide)) (by rw [c.flush_solid (x := F32.negTwo) (by decide)]; decide)
      (by rw [c.flush_isNaN]; exact hn))
    rw [hfq] at hsub hadd
    exact ⟨_, a1, _, a1, hsub, by rw [c.mul_two_neg]; exact ha1, hadd, ha1, ha1n, ha1n, .inl rfl⟩

/-- R146: the low-shelf design at 0 dB. -/
theorem shelfDesign_zero_gain {c : Cfg} {fc q fs cw alpha sw beta a0 : F32} {n : Nat}
    (hpre : bqPre c fc q F32.zero fs n = ((F32.one, cw, sw, alpha), n)) (hcw : F32.isFinite cw = true)
    (halpha : F32.isFinite alpha = true) (hbeta : c.mul F32.two alpha n = (beta, n))
    (ha0 : c.add F32.two beta n = (a0, n)) (hf : F32.isFinite a0 = true) (hz : F32.isZero a0 = false) :
    ∃ b1 a1 a2, shelfDesign c fc q F32.zero fs n = (⟨F32.one, b1, a2, a1, a2⟩, n) ∧
      F32.value b1 = F32.value a1 ∧ (F32.isZero (c.flush cw) = false → b1 = a1) := by
  have htwo : c.flush F32.two = F32.two := c.flush_solid (by decide)
  have hfa0 : c.flush a0 = a0 := c.flush_of_finish ha0
  have hz' : F32.isZero (c.flush a0) = false := by rw [hfa0]; exact hz
  have htz : F32.isZero (c.flush F32.two) = false := by rw [htwo]; decide
  have hsqrt : c.sqrt F32.one n = (F32.one, n) := by
    rw [Cfg.sqrt, c.flush_solid (x := F32.one) (by decide), show F32.sqrt F32.one = some F32.one by decide +kernel]
    show (c.flush F32.one, n) = _
    rw [c.flush_solid (x := F32.one) (by decide)]
  have hap1 : c.add F32.one F32.one n = (F32.two, n) :=
    c.finish_solid (op := F32.add) (by decide) (by decide) (by decide) (by decide)
  have h2 : c.mul F32.two F32.one n = (F32.two, n) := by
    rw [c.mul_one (by decide), htwo]
  have hscale : c.mul F32.one a0 n = (a0, n) := by
    rw [c.one_mul (F32.not_isNaN_of_finite hf), hfa0]
  obtain ⟨p, hp, hpz⟩ := c.isZero_mul hcw isZero_zero n
  have hsubp := c.sub_isZero (x := F32.two) (by decide) htz hpz n
  have haddp := (c.add_isZero (x := F32.two) (by decide) htz hpz n).1
  rw [htwo] at hsubp haddp
  obtain ⟨q2, hq2, hq2n⟩ := c.mul_of_finite (x := F32.two) n (by decide) hcw
  obtain ⟨d1, b1, d4, a1, hd1, hb1, hd4, ha1, hb1n, ha1n, hmid⟩ := shelf_middle hcw hq2 hq2n
  have hbn : F32.isNaN beta = false := by
    obtain ⟨beta', hb', hbn'⟩ := c.mul_of_finite (x := F32.two) n (by decide) halpha
    rw [hbeta] at hb'
    cases hb'
    exact hbn'
  obtain ⟨s2, hs2, hs2n⟩ := c.sub_gives (x := F32.two) (by decide) hbn n
  have hscale2 : c.mul F32.one s2 n = (s2, n) := by
    rw [c.one_mul hs2n, c.flush_of_finish hs2]
  obtain ⟨m1, hm1, hm1z⟩ := c.div_gives hb1n hf hz' n
  obtain ⟨m2, hm2, -⟩ := c.div_gives hs2n hf hz' n
  obtain ⟨m3, hm3, hm3z⟩ := c.div_gives ha1n hf hz' n
  refine ⟨m1, m3, m2, shelfDesign_run hpre hsqrt h2 hbeta hap1 (c.sub_self (by decide) n) hp hsubp ha0 hscale h2 hq2
    hd1 hb1 hp hsubp hs2 hscale2 hp haddp ha0 hq2 hd4 ha1 hp haddp hs2
    (bqNorm_run (c.div_self hf hz' n) hm1 hm2 hm3 hm2), ?_⟩
  rcases hmid with rfl | ⟨hbz, haz, hcz⟩
  · rw [hm1] at hm3
    cases hm3
    exact ⟨rfl, fun _ => rfl⟩
  · have h1 := hm1z (by rw [c.flush_isZero hbz]; exact hbz)
    have h3 := hm3z (by rw [c.flush_isZero haz]; exact haz)
    exact ⟨by rw [F32.value_of_isZero h1, F32.value_of_isZero h3], fun h => absurd (hcz.symm.trans h) (by decide)⟩

/-- Settles O37, by the two designs at A = 1. -/
theorem zeroGainIdentity : Obligations.ZeroGainIdentity := by
  unfold Obligations.ZeroGainIdentity
  intro c fc q fs cw alpha sw n _ hpre hcw halpha
  exact ⟨fun a0 ha0 hf hz => peakDesign_zero_gain hpre hcw halpha ha0 hf hz,
    fun beta a0 hbeta ha0 hf hz => shelfDesign_zero_gain hpre hcw halpha hbeta ha0 hf hz⟩

end Machine
end Sys2Proof
end
